-- ==== Sys2Proof/Word.lean ====
section
/-! DEFINITION. The widths of the CHIP-8 core (spec/00_scope.md R10, R14; spec/30_encoding.md R91). -/

namespace Sys2Proof

/-- A memory byte, a general register, a timer or the immediate NN: 8 bits. -/
abbrev Byte := BitVec 8

/-- An instruction word, PC, I or a stack entry: 16 bits. -/
abbrev Word := BitVec 16

/-- A register index X or Y, or the count N: 4 bits. -/
abbrev Nibble := BitVec 4

/-- The address field NNN: 12 bits. -/
abbrev Addr := BitVec 12

end Sys2Proof
end

