-- ==== Sys2Proof/Syntax.lean ====
section
/-! DEFINITION. The instructions: one constructor per row of spec/opcode_table.json (spec/30_encoding.md R95, R106).
A field the instruction ignores (y of SHR and SHL, n of SNE Vx, Vy) is kept, so that an instruction is its word. -/

namespace Sys2Proof

/-- The 35 decoded classes, in the order of 30_encoding.md R95. -/
inductive OpClass where
  | cls | ret | jp | call | seImm | sneImm | seReg | ldImm | addImm | ldReg | orReg | andReg | xorReg
  | addReg | sub | shr | subn | shl | sneReg | ldI | jpV0 | rnd | drw | skp | sknp | ldVxDt | ldVxK
  | ldDtVx | ldStVx | addI | ldF | ldB | ldMemVx | ldVxMem | nopUnknown
  deriving DecidableEq, Repr

inductive Instr where
  | cls                                  -- 00E0  CLS
  | ret                                  -- 00EE  RET
  | jp (nnn : Addr)                      -- 1NNN  JP nnn
  | call (nnn : Addr)                    -- 2NNN  CALL nnn
  | seImm (x : Nibble) (nn : Byte)       -- 3XNN  SE Vx, nn
  | sneImm (x : Nibble) (nn : Byte)      -- 4XNN  SNE Vx, nn
  | seReg (x y : Nibble)                 -- 5XY0  SE Vx, Vy
  | ldImm (x : Nibble) (nn : Byte)       -- 6XNN  LD Vx, nn
  | addImm (x : Nibble) (nn : Byte)      -- 7XNN  ADD Vx, nn
  | ldReg (x y : Nibble)                 -- 8XY0  LD Vx, Vy
  | orReg (x y : Nibble)                 -- 8XY1  OR Vx, Vy
  | andReg (x y : Nibble)                -- 8XY2  AND Vx, Vy
  | xorReg (x y : Nibble)                -- 8XY3  XOR Vx, Vy
  | addReg (x y : Nibble)                -- 8XY4  ADD Vx, Vy
  | sub (x y : Nibble)                   -- 8XY5  SUB Vx, Vy
  | shr (x y : Nibble)                   -- 8XY6  SHR Vx (y ignored)
  | subn (x y : Nibble)                  -- 8XY7  SUBN Vx, Vy
  | shl (x y : Nibble)                   -- 8XYE  SHL Vx (y ignored)
  | sneReg (x y n : Nibble)              -- 9XYN  SNE Vx, Vy (n ignored)
  | ldI (nnn : Addr)                     -- ANNN  LD I, nnn
  | jpV0 (nnn : Addr)                    -- BNNN  JP V0, nnn
  | rnd (x : Nibble) (nn : Byte)         -- CXNN  RND Vx, nn
  | drw (x y n : Nibble)                 -- DXYN  DRW Vx, Vy, n
  | skp (x : Nibble)                     -- EX9E  SKP Vx
  | sknp (x : Nibble)                    -- EXA1  SKNP Vx
  | ldVxDt (x : Nibble)                  -- FX07  LD Vx, DT
  | ldVxK (x : Nibble)                   -- FX0A  LD Vx, K
  | ldDtVx (x : Nibble)                  -- FX15  LD DT, Vx
  | ldStVx (x : Nibble)                  -- FX18  LD ST, Vx
  | addI (x : Nibble)                    -- FX1E  ADD I, Vx
  | ldF (x : Nibble)                     -- FX29  LD F, Vx
  | ldB (x : Nibble)                     -- FX33  LD B, Vx
  | ldMemVx (x : Nibble)                 -- FX55  LD [I], Vx
  | ldVxMem (x : Nibble)                 -- FX65  LD Vx, [I]
  | nop (w : Word)                       -- .word 0xHHHH, any word no other row matches
  deriving DecidableEq, Repr

/-- The class of an instruction (30_encoding.md R95). -/
def Instr.opClass : Instr → OpClass
  | .cls => .cls
  | .ret => .ret
  | .jp _ => .jp
  | .call _ => .call
  | .seImm _ _ => .seImm
  | .sneImm _ _ => .sneImm
  | .seReg _ _ => .seReg
  | .ldImm _ _ => .ldImm
  | .addImm _ _ => .addImm
  | .ldReg _ _ => .ldReg
  | .orReg _ _ => .orReg
  | .andReg _ _ => .andReg
  | .xorReg _ _ => .xorReg
  | .addReg _ _ => .addReg
  | .sub _ _ => .sub
  | .shr _ _ => .shr
  | .subn _ _ => .subn
  | .shl _ _ => .shl
  | .sneReg _ _ _ => .sneReg
  | .ldI _ => .ldI
  | .jpV0 _ => .jpV0
  | .rnd _ _ => .rnd
  | .drw _ _ _ => .drw
  | .skp _ => .skp
  | .sknp _ => .sknp
  | .ldVxDt _ => .ldVxDt
  | .ldVxK _ => .ldVxK
  | .ldDtVx _ => .ldDtVx
  | .ldStVx _ => .ldStVx
  | .addI _ => .addI
  | .ldF _ => .ldF
  | .ldB _ => .ldB
  | .ldMemVx _ => .ldMemVx
  | .ldVxMem _ => .ldVxMem
  | .nop _ => .nopUnknown

end Sys2Proof
end

