-- ==== Sys2Proof/Decode.lean ====
section
/-! DEFINITION. The decoder (spec/30_encoding.md R91 to R103), the opcode map (R106), the encoder written from the
patterns of R106, and the decoder over bytes in memory order (spec/20_memory.md R63). -/

namespace Sys2Proof

/-! ## Fields (R91, R92) -/

def fieldOp (w : Word) : Nibble := w.extractLsb' 12 4
def fieldX (w : Word) : Nibble := w.extractLsb' 8 4
def fieldY (w : Word) : Nibble := w.extractLsb' 4 4
def fieldN (w : Word) : Nibble := w.extractLsb' 0 4
def fieldNN (w : Word) : Byte := w.extractLsb' 0 8
def fieldNNN (w : Word) : Addr := w.extractLsb' 0 12

/-! ## The decoder -/

/-- op = 0: the whole word is compared (R97). -/
def decodeOp0 (w : Word) : Instr :=
  if w = 0x00E0#16 then .cls else if w = 0x00EE#16 then .ret else .nop w

/-- op = 5: only n = 0 is SE Vx, Vy (R98). -/
def decodeOp5 (w : Word) : Instr :=
  if fieldN w = 0x0#4 then .seReg (fieldX w) (fieldY w) else .nop w

/-- op = 8: second level on n (R99). -/
def decodeOp8 (w : Word) : Instr :=
  let x := fieldX w
  let y := fieldY w
  let n := fieldN w
  if n = 0x0#4 then .ldReg x y
  else if n = 0x1#4 then .orReg x y
  else if n = 0x2#4 then .andReg x y
  else if n = 0x3#4 then .xorReg x y
  else if n = 0x4#4 then .addReg x y
  else if n = 0x5#4 then .sub x y
  else if n = 0x6#4 then .shr x y
  else if n = 0x7#4 then .subn x y
  else if n = 0xE#4 then .shl x y
  else .nop w

/-- op = E: second level on nn (R101). -/
def decodeOpE (w : Word) : Instr :=
  let x := fieldX w
  let nn := fieldNN w
  if nn = 0x9E#8 then .skp x else if nn = 0xA1#8 then .sknp x else .nop w

/-- op = F: second level on nn (R102). -/
def decodeOpF (w : Word) : Instr :=
  let x := fieldX w
  let nn := fieldNN w
  if nn = 0x07#8 then .ldVxDt x
  else if nn = 0x0A#8 then .ldVxK x
  else if nn = 0x15#8 then .ldDtVx x
  else if nn = 0x18#8 then .ldStVx x
  else if nn = 0x1E#8 then .addI x
  else if nn = 0x29#8 then .ldF x
  else if nn = 0x33#8 then .ldB x
  else if nn = 0x55#8 then .ldMemVx x
  else if nn = 0x65#8 then .ldVxMem x
  else .nop w

/-- The decoder, a total function of the word (R94, R96, R103). -/
def decode (w : Word) : Instr :=
  let op := fieldOp w
  if op = 0x0#4 then decodeOp0 w
  else if op = 0x1#4 then .jp (fieldNNN w)
  else if op = 0x2#4 then .call (fieldNNN w)
  else if op = 0x3#4 then .seImm (fieldX w) (fieldNN w)
  else if op = 0x4#4 then .sneImm (fieldX w) (fieldNN w)
  else if op = 0x5#4 then decodeOp5 w
  else if op = 0x6#4 then .ldImm (fieldX w) (fieldNN w)
  else if op = 0x7#4 then .addImm (fieldX w) (fieldNN w)
  else if op = 0x8#4 then decodeOp8 w
  else if op = 0x9#4 then .sneReg (fieldX w) (fieldY w) (fieldN w)
  else if op = 0xA#4 then .ldI (fieldNNN w)
  else if op = 0xB#4 then .jpV0 (fieldNNN w)
  else if op = 0xC#4 then .rnd (fieldX w) (fieldNN w)
  else if op = 0xD#4 then .drw (fieldX w) (fieldY w) (fieldN w)
  else if op = 0xE#4 then decodeOpE w
  else decodeOpF w

/-- The decoded record of R95. -/
structure Decoded where
  word : Word
  op : Nibble
  x : Nibble
  y : Nibble
  n : Nibble
  nn : Byte
  nnn : Addr
  opClass : OpClass
  deriving DecidableEq, Repr

/-- The decoded record of a word (R95, R103). -/
def decodedRecord (w : Word) : Decoded :=
  { word := w, op := fieldOp w, x := fieldX w, y := fieldY w, n := fieldN w, nn := fieldNN w,
    nnn := fieldNNN w, opClass := (decode w).opClass }

/-! ## The opcode map (R106) -/

/-- One row of R106: a word `w` is of the class iff `w &&& mask = bits`. -/
structure OpcodeRow where
  opClass : OpClass
  bits : Word
  mask : Word
  deriving DecidableEq, Repr

def opcodeRowsA : List OpcodeRow :=
  [⟨.cls, 0x00E0, 0xFFFF⟩, ⟨.ret, 0x00EE, 0xFFFF⟩, ⟨.jp, 0x1000, 0xF000⟩, ⟨.call, 0x2000, 0xF000⟩,
   ⟨.seImm, 0x3000, 0xF000⟩, ⟨.sneImm, 0x4000, 0xF000⟩, ⟨.seReg, 0x5000, 0xF00F⟩, ⟨.ldImm, 0x6000, 0xF000⟩,
   ⟨.addImm, 0x7000, 0xF000⟩]

def opcodeRowsB : List OpcodeRow :=
  [⟨.ldReg, 0x8000, 0xF00F⟩, ⟨.orReg, 0x8001, 0xF00F⟩, ⟨.andReg, 0x8002, 0xF00F⟩, ⟨.xorReg, 0x8003, 0xF00F⟩,
   ⟨.addReg, 0x8004, 0xF00F⟩, ⟨.sub, 0x8005, 0xF00F⟩, ⟨.shr, 0x8006, 0xF00F⟩, ⟨.subn, 0x8007, 0xF00F⟩,
   ⟨.shl, 0x800E, 0xF00F⟩]

def opcodeRowsC : List OpcodeRow :=
  [⟨.sneReg, 0x9000, 0xF000⟩, ⟨.ldI, 0xA000, 0xF000⟩, ⟨.jpV0, 0xB000, 0xF000⟩, ⟨.rnd, 0xC000, 0xF000⟩,
   ⟨.drw, 0xD000, 0xF000⟩, ⟨.skp, 0xE09E, 0xF0FF⟩, ⟨.sknp, 0xE0A1, 0xF0FF⟩]

def opcodeRowsD : List OpcodeRow :=
  [⟨.ldVxDt, 0xF007, 0xF0FF⟩, ⟨.ldVxK, 0xF00A, 0xF0FF⟩, ⟨.ldDtVx, 0xF015, 0xF0FF⟩, ⟨.ldStVx, 0xF018, 0xF0FF⟩,
   ⟨.addI, 0xF01E, 0xF0FF⟩, ⟨.ldF, 0xF029, 0xF0FF⟩, ⟨.ldB, 0xF033, 0xF0FF⟩, ⟨.ldMemVx, 0xF055, 0xF0FF⟩,
   ⟨.ldVxMem, 0xF065, 0xF0FF⟩]

/-- The 34 instruction rows of R106; a word matching none of them is NOP_UNKNOWN (R104). -/
def opcodeTable : List OpcodeRow := opcodeRowsA ++ opcodeRowsB ++ opcodeRowsC ++ opcodeRowsD

/-- Whether a word matches a row. -/
def OpcodeRow.matches (r : OpcodeRow) (w : Word) : Bool := w &&& r.mask == r.bits

/-! ## The encoder, from the patterns of R106 -/

/-- The pattern OP X NN. -/
def wordXNN (op x : Nibble) (nn : Byte) : Word := op ++ x ++ nn

/-- The pattern OP X Y N. -/
def wordXYN (op x y n : Nibble) : Word := op ++ x ++ y ++ n

/-- The pattern OP NNN. -/
def wordNNN (op : Nibble) (nnn : Addr) : Word := op ++ nnn

/-- The word of an instruction. -/
def encode : Instr → Word
  | .cls => 0x00E0#16
  | .ret => 0x00EE#16
  | .jp nnn => wordNNN 0x1#4 nnn
  | .call nnn => wordNNN 0x2#4 nnn
  | .seImm x nn => wordXNN 0x3#4 x nn
  | .sneImm x nn => wordXNN 0x4#4 x nn
  | .seReg x y => wordXYN 0x5#4 x y 0x0#4
  | .ldImm x nn => wordXNN 0x6#4 x nn
  | .addImm x nn => wordXNN 0x7#4 x nn
  | .ldReg x y => wordXYN 0x8#4 x y 0x0#4
  | .orReg x y => wordXYN 0x8#4 x y 0x1#4
  | .andReg x y => wordXYN 0x8#4 x y 0x2#4
  | .xorReg x y => wordXYN 0x8#4 x y 0x3#4
  | .addReg x y => wordXYN 0x8#4 x y 0x4#4
  | .sub x y => wordXYN 0x8#4 x y 0x5#4
  | .shr x y => wordXYN 0x8#4 x y 0x6#4
  | .subn x y => wordXYN 0x8#4 x y 0x7#4
  | .shl x y => wordXYN 0x8#4 x y 0xE#4
  | .sneReg x y n => wordXYN 0x9#4 x y n
  | .ldI nnn => wordNNN 0xA#4 nnn
  | .jpV0 nnn => wordNNN 0xB#4 nnn
  | .rnd x nn => wordXNN 0xC#4 x nn
  | .drw x y n => wordXYN 0xD#4 x y n
  | .skp x => wordXNN 0xE#4 x 0x9E#8
  | .sknp x => wordXNN 0xE#4 x 0xA1#8
  | .ldVxDt x => wordXNN 0xF#4 x 0x07#8
  | .ldVxK x => wordXNN 0xF#4 x 0x0A#8
  | .ldDtVx x => wordXNN 0xF#4 x 0x15#8
  | .ldStVx x => wordXNN 0xF#4 x 0x18#8
  | .addI x => wordXNN 0xF#4 x 0x1E#8
  | .ldF x => wordXNN 0xF#4 x 0x29#8
  | .ldB x => wordXNN 0xF#4 x 0x33#8
  | .ldMemVx x => wordXNN 0xF#4 x 0x55#8
  | .ldVxMem x => wordXNN 0xF#4 x 0x65#8
  | .nop w => w

/-! ## Bytes in memory order (20_memory.md R63: the byte at the lower address is bits 15:8) -/

/-- The byte at the lower address, bits 15:8 of a word. -/
def highByte (w : Word) : Byte := w.extractLsb' 8 8

/-- The byte at the higher address, bits 7:0 of a word. -/
def lowByte (w : Word) : Byte := w.extractLsb' 0 8

/-- The word made of two bytes, the first at the lower address. -/
def wordOfBytes (hi lo : Byte) : Word := hi ++ lo

/-- Why a list of bytes gives no instruction. -/
inductive DecodeError where
  | truncated   -- fewer than two bytes: every instruction is one 16-bit word (R90)
  deriving DecidableEq, Repr

/-- The instruction at the front of a list of bytes, and the bytes after it. -/
def decodeBytes : List Byte → Except DecodeError (Instr × List Byte)
  | hi :: lo :: rest => .ok (decode (wordOfBytes hi lo), rest)
  | _ => .error .truncated

/-- The bytes of an instruction, the lowest address first. -/
def encodeBytes (i : Instr) : List Byte := [highByte (encode i), lowByte (encode i)]

/-- The host's probe: the instruction the decoder reads from a word given as a number with bit 0 the word's least
significant bit. Every row is one 16-bit word, so the bits above 15 are none of the instruction's. -/
def decodeTableWord (_nbits w : Nat) : Option Instr :=
  match decodeBytes [highByte (BitVec.ofNat 16 w), lowByte (BitVec.ofNat 16 w)] with
  | .ok (i, _) => some i
  | .error _ => none

end Sys2Proof
end

