-- ==== Sys2Proof/Config.lean ====
section
/-! DEFINITION. What the host fixes at load, what it supplies at each frame, and the free values of the spec
(spec/00_scope.md section 4; spec/60_exceptions.md R290, R300, R308; spec/93_implementation_defined.md section 1). -/

namespace Sys2Proof

/-- The load-time parameter FX29_HIGH: what LD F, Vx does for Vx above 15 (43_index_memory.md R212). -/
inductive Fx29High where
  | formula   -- I takes Vx times 5, as for every other Vx (the default)
  | draw      -- I takes a free 16-bit draw
  deriving DecidableEq, Repr

/-- What the host sends for one frame: the key vector, at most one pause toggle, at most one quit
(60_exceptions.md R306, R307). -/
structure FrameInput where
  keys : Vector Bool 16
  pauseToggle : Bool
  quit : Bool
  deriving DecidableEq, Repr, Inhabited

/-- The frame input with no key, no pause and no quit. -/
def FrameInput.quiet : FrameInput :=
  { keys := Vector.replicate 16 false, pauseToggle := false, quit := false }

/-- What the host configures once, with the image (60_exceptions.md R308). Glyph 0 of FONT is fixed by the spec,
so only the 75 bytes of glyphs 1 to F are configured (00_scope.md R18, decision D15). -/
structure Config where
  ips : Nat
  tickRate : Nat
  fx29High : Fx29High
  glyphs : Vector Byte 75
  deriving DecidableEq, Repr

/-- Default IPS (00_scope.md R19). -/
def Config.defaultIps : Nat := 500

/-- Default TICK_RATE (00_scope.md R19). -/
def Config.defaultTickRate : Nat := 60

/-- Free value: the byte the host's random source gives to the `n`-th draw, where the host has lined up none
(60_exceptions.md R300: "a model takes each as a free input ranging over 0 to 255"; log entry 4). -/
opaque Config.randByte : Nat → Byte

/-- Free value: the 16-bit draw of LD F, Vx for Vx above 15 under FX29_HIGH = draw (43_index_memory.md R212;
log entry 5). -/
opaque Config.fontAddress : Nat → Word

/-- Free value: what the host sends for the `n`-th frame, where it has lined up nothing
(93_implementation_defined.md U10: "any value"; log entry 3). -/
opaque Config.frameInput : Nat → FrameInput

end Sys2Proof
end

