-- ==== Sys2Proof/Machine/State.lean ====
section
/-! DEFINITION. The state of the core (spec/10_state.md), the reset state (spec/70_reset_and_hazards.md R323) and the
reasons a load or an instruction can be turned away. -/

namespace Sys2Proof.Machine

open Sys2Proof

/-- 10_state.md R38. -/
inductive RunState where
  | running
  | paused
  | halted
  deriving DecidableEq, Repr

/-- The spec's runtime faults (60_exceptions.md R270). Taking one is a next state: it is latched in `State.fault` and
halts the core (40_cycle.md R137). -/
inductive FaultCode where
  | stackOverflow        -- 1
  | stackUnderflow       -- 2
  | addressOutOfRange    -- 3
  | keyIndexOutOfRange   -- 4
  deriving DecidableEq, Repr

/-- The number of a fault code (60_exceptions.md R270, decision D8). -/
def FaultCode.number : FaultCode → Nat
  | .stackOverflow => 1
  | .stackUnderflow => 2
  | .addressOutOfRange => 3
  | .keyIndexOutOfRange => 4

/-- The fault record (60_exceptions.md R275); `word` is none for a fetch fault. -/
structure FaultRecord where
  code : FaultCode
  pc : Word
  word : Option Word
  detail : Nat
  deriving DecidableEq, Repr

/-- `Disp[y][x]`, 32 rows of 64 pixels, true = foreground (10_state.md R35). -/
abbrev Display := Vector (Vector Bool 64) 32

/-- The memory as a list of bytes that differ from what an unlisted address reads as (`background`, Ops.lean), in
strictly rising address order (`Memory.wf`, Ops.lean). -/
abbrev Memory := List Host.Cell

/-- What the core presents to the host at the end of a frame (60_exceptions.md R309 to R311). -/
structure Outputs where
  framebuffer : Display
  soundActive : Bool
  runState : RunState
  fault : Option FaultRecord
  deriving DecidableEq, Repr

structure State where
  /-- V0 to VF (10_state.md R30). -/
  v : Vector Byte 16
  /-- I (R33). -/
  i : Word
  /-- PC (R32): between cycles, the address of the next instruction to fetch. -/
  pc : Word
  /-- Stack[0..11] (R34). -/
  stack : Vector Word 12
  /-- SP, the depth 0..12 (R34). -/
  sp : Fin 13
  /-- Disp (R35). -/
  disp : Display
  /-- Keys[0..15] (R36). -/
  keys : Vector Bool 16
  /-- DT (R37). -/
  dt : Byte
  /-- ST (R37). -/
  st : Byte
  /-- run_state (R38). -/
  runState : RunState
  /-- The fault latch (R39). -/
  fault : Option FaultRecord
  /-- Mem[0..4095] (20_memory.md R60). -/
  mem : Memory
  /-- K, the batch size fixed at load (60_exceptions.md R291; 70_reset_and_hazards.md R323). -/
  k : Nat
  /-- The load-time parameter FX29_HIGH (43_index_memory.md R212). -/
  fx29High : Fx29High
  /-- The position in the batch (10_state.md R44): cycles of the current batch still to run; 0 at a frame start. -/
  left : Nat
  /-- The model's own: what the host has lined up for the coming frames, the next one first (log entry 3). -/
  inputs : List FrameInput
  /-- The model's own: the bytes the host's random source has lined up, the next one first (log entry 4). -/
  rng : List Byte
  /-- The model's own: how many frame inputs have been taken (log entry 3). -/
  frames : Nat
  /-- The model's own: how many draws have been taken (log entry 4). -/
  draws : Nat
  /-- The model's own: what was last presented to the host; none before the first frame end (log entry 10). -/
  presented : Option Outputs
  deriving DecidableEq, Repr

/-- The outcomes a load can have that are faults. No step of the core ends in one: the spec's runtime faults are
latched in the state (log entry 9). -/
inductive Fault where
  /-- Raised by `load` for an unreadable or oversized image (70_reset_and_hazards.md R321); safe: no state is made. -/
  | romLoadError
  deriving DecidableEq, Repr

inductive Refusal where
  /-- Raised by an arm of `exec` that has no meaning yet; safe. No arm does. -/
  | notModelled (mnemonic : String)
  /-- Raised by `load` for TICK_RATE = 0 (70_reset_and_hazards.md R320, decision D26); safe. -/
  | tickRateZero
  deriving DecidableEq, Repr

/-- The state after the load of an empty image with the default configuration (70_reset_and_hazards.md R323). -/
def State.reset : State :=
  { v := Vector.replicate 16 0#8
    i := 0#16
    pc := 0x200#16
    stack := Vector.replicate 12 0#16
    sp := 0
    disp := Vector.replicate 32 (Vector.replicate 64 false)
    keys := Vector.replicate 16 false
    dt := 0#8
    st := 0#8
    runState := .running
    fault := none
    mem := []
    k := Config.defaultIps / Config.defaultTickRate
    fx29High := .formula
    left := 0
    inputs := []
    rng := []
    frames := 0
    draws := 0
    presented := none }

end Sys2Proof.Machine
end

