-- ==== Sys2Proof/Machine/Ops.lean ====
section
/-! DEFINITION. The named operations: memory, registers, stack, keypad, display, draws, the faults and the one way a
fault is taken (spec/10_state.md, spec/20_memory.md, spec/40_cycle.md R132, R134, R137). -/

namespace Sys2Proof.Machine

open Sys2Proof

/-- What an instruction answers. -/
abbrev Result := Host.Outcome State Fault Refusal

/-- MEM_SIZE (00_scope.md R10). -/
abbrev memSize : Nat := 4096

/-! ## Memory (20_memory.md R60, R62, R69) -/

/-- Glyph 0 of FONT, the only one the source fixes (70_reset_and_hazards.md R322). -/
def fontGlyph0 : List Byte := [0xF0, 0x90, 0x90, 0x90, 0xF0]

/-- The default bytes of glyphs 1 to 8 (R322; PRESUMED, log entry 6). -/
def fontGlyphs1to8 : List Byte :=
  [0x20, 0x60, 0x20, 0x20, 0x70,
   0xF0, 0x10, 0xF0, 0x80, 0xF0,
   0xF0, 0x10, 0xF0, 0x10, 0xF0,
   0x90, 0x90, 0xF0, 0x10, 0x10,
   0xF0, 0x80, 0xF0, 0x10, 0xF0,
   0xF0, 0x80, 0xF0, 0x90, 0xF0,
   0xF0, 0x10, 0x20, 0x40, 0x40,
   0xF0, 0x90, 0xF0, 0x90, 0xF0]

/-- The default bytes of glyphs 9 to F (R322; PRESUMED, log entry 6). -/
def fontGlyphs9toF : List Byte :=
  [0xF0, 0x90, 0xF0, 0x10, 0xF0,
   0xF0, 0x90, 0xF0, 0x90, 0x90,
   0xE0, 0x90, 0xE0, 0x90, 0xE0,
   0xF0, 0x80, 0x80, 0x80, 0xF0,
   0xE0, 0x90, 0x90, 0x90, 0xE0,
   0xF0, 0x80, 0xF0, 0x80, 0xF0,
   0xF0, 0x80, 0xF0, 0x80, 0x80]

/-- The default FONT, 80 bytes from address 0x000 (R322). -/
def defaultFont : List Byte := fontGlyph0 ++ fontGlyphs1to8 ++ fontGlyphs9toF

/-- What an unlisted address reads as: the reset contents, the default font below 0x050 and 0 above
(20_memory.md R69, R325). -/
def background (a : Nat) : Byte := defaultFont.getD a 0#8

/-- `Mem[a]`. -/
def Memory.read : Memory → Nat → Byte
  | [], a => background a
  | (b, v) :: m, a => if b = a then v else Memory.read m a

/-- The list without any entry for `a`. -/
def Memory.erase : Memory → Nat → Memory
  | [], _ => []
  | (b, v) :: m, a => if b = a then Memory.erase m a else (b, v) :: Memory.erase m a

/-- The list with an entry for `a` put before the first entry of a higher address. -/
def Memory.insert : Memory → Nat → Byte → Memory
  | [], a, v => [(a, v)]
  | (b, u) :: m, a, v => if a < b then (a, v) :: (b, u) :: m else (b, u) :: Memory.insert m a v

/-- `Mem[a] <- v`: an entry equal to what an unlisted address reads as is not kept. -/
def Memory.write (m : Memory) (a : Nat) (v : Byte) : Memory :=
  if v = background a then Memory.erase m a else Memory.insert (Memory.erase m a) a v

/-- Bytes written at rising addresses from `a`. -/
def Memory.writeList (m : Memory) (a : Nat) : List Byte → Memory
  | [] => m
  | v :: vs => Memory.writeList (Memory.write m a v) (a + 1) vs

/-- The canonical form from address `lo` on: strictly rising addresses inside the memory, and no entry equal to what an
unlisted address reads as. -/
def Memory.wfFrom (lo : Nat) : Memory → Bool
  | [] => true
  | (a, v) :: m => decide (lo ≤ a) && decide (a < memSize) && decide (v ≠ background a) && Memory.wfFrom (a + 1) m

/-- The canonical form of the memory. -/
def Memory.wf (m : Memory) : Bool := Memory.wfFrom 0 m

/-! ## Registers (10_state.md R30, R32, R33) -/

/-- V[x]. -/
def State.getV (s : State) (x : Nibble) : Byte := s.v[x.toFin]

/-- V[x] <- b. -/
def State.setV (s : State) (x : Nibble) (b : Byte) : State := { s with v := s.v.set x.toFin b }

/-- pc <- w. -/
def State.setPc (s : State) (w : Word) : State := { s with pc := w }

/-- I <- w. -/
def State.setI (s : State) (w : Word) : State := { s with i := w }

/-- DT <- b. -/
def State.setDt (s : State) (b : Byte) : State := { s with dt := b }

/-- ST <- b. -/
def State.setSt (s : State) (b : Byte) : State := { s with st := b }

/-- Mem[a] <- b. -/
def State.writeByte (s : State) (a : Nat) (b : Byte) : State := { s with mem := s.mem.write a b }

/-- Disp <- d. -/
def State.setDisp (s : State) (d : Display) : State := { s with disp := d }

/-- PC <- PC0 + 2, before the instruction's own effect (40_cycle.md R132). -/
def State.advancePc (s : State) : State := s.setPc (s.pc + 2#16)

/-- The skip of 40_cycle.md R134, from the state in which PC is PC0. -/
def State.skipIf (s : State) (taken : Bool) : State :=
  let t := s.advancePc
  if taken then t.setPc (t.pc + 2#16) else t

/-! ## Faults (40_cycle.md R137; 60_exceptions.md R270 to R276) -/

/-- `raise Fault(code, detail)`. -/
structure Raise where
  code : FaultCode
  detail : Nat
  deriving DecidableEq, Repr

/-- Fault entry (R137, R276), from the state before the cycle, so that every write of the cycle is discarded and PC is
PC0. The latch keeps the first fault; the word is none for a fetch fault. -/
def State.takeFault (s : State) (word : Option Word) (e : Raise) : State :=
  { s with
    fault := if s.fault = none then some { code := e.code, pc := s.pc, word := word, detail := e.detail } else s.fault
    runState := .halted }

/-- How an instruction that can fault ends: `raised` is its check, made before any write; `done` is the state its
effect gives where the check raises nothing. -/
def attempt (i : Instr) (s : State) (raised : Option Raise) (done : State) : Result :=
  match raised with
  | none => .next done
  | some e => .next (s.takeFault (some (encode i)) e)

/-- The check of `n` bytes from address `base` on, computed without wrap (20_memory.md R62, R64): the detail is the
first address outside the memory. With `n` = 1 it is the check of MemRead and MemWrite, with `n` = 2 that of Fetch. -/
def addressCheck (base n : Nat) : Option Raise :=
  if n ≠ 0 ∧ base + n - 1 ≥ memSize then some { code := .addressOutOfRange, detail := max base memSize } else none

/-- The key index check of 45_keypad_timer.md R256. -/
def keyCheck (key : Byte) : Option Raise :=
  if key.toNat > 15 then some { code := .keyIndexOutOfRange, detail := key.toNat } else none

/-! ## The call stack (10_state.md R41, R42) -/

/-- Push's check: SP = 12 overflows, the detail is the value that could not be pushed. -/
def State.pushCheck (s : State) (v : Word) : Option Raise :=
  if s.sp.val = 12 then some { code := .stackOverflow, detail := v.toNat } else none

/-- Push, where its check raises nothing. -/
def State.push (s : State) (v : Word) : State :=
  if h : s.sp.val < 12 then { s with stack := s.stack.set s.sp.val v h, sp := ⟨s.sp.val + 1, by omega⟩ } else s

/-- Pop's check: SP = 0 underflows. -/
def State.popCheck (s : State) : Option Raise :=
  if s.sp.val = 0 then some { code := .stackUnderflow, detail := 0 } else none

/-- The entry Pop returns, where its check raises nothing. -/
def State.top (s : State) : Word := s.stack[s.sp.val - 1]'(by omega)

/-- The depth after Pop; the entry stays in place. -/
def State.dropTop (s : State) : State := { s with sp := ⟨s.sp.val - 1, by omega⟩ }

/-! ## Fetch (20_memory.md R63, R65) -/

/-- The word at an address: the byte at the lower address is bits 15:8. -/
def Memory.word (m : Memory) (a : Nat) : Word := wordOfBytes (m.read a) (m.read (a + 1))

/-- Fetch(PC): the word, or the fault it raises. -/
def State.fetch (s : State) : Except Raise Word :=
  match addressCheck s.pc.toNat 2 with
  | some e => .error e
  | none => .ok (s.mem.word s.pc.toNat)

/-! ## Keypad (10_state.md R36) -/

/-- Keys[k]; false where there is no such key. -/
def State.keyDown (s : State) (k : Nat) : Bool := if h : k < 16 then s.keys[k] else false

/-- The lowest-index pressed key, found by a scan from 0 (45_keypad_timer.md R252). -/
def State.lowestKey (s : State) : Option Nat := (List.range 16).find? s.keyDown

/-! ## Draws (60_exceptions.md R300) -/

/-- The byte RandByte() returns: the next one the host has lined up, else a free value. -/
def State.nextRandByte (s : State) : Byte := s.rng.headD (Config.randByte s.draws)

/-- The state after RandByte(). -/
def State.afterRandByte (s : State) : State := { s with rng := s.rng.tail, draws := s.draws + 1 }

/-- The free 16-bit draw of LD F, Vx under FX29_HIGH = draw (43_index_memory.md R212). -/
def State.nextFontAddress (s : State) : Word := Config.fontAddress s.draws

/-- The state after that draw. -/
def State.afterFontAddress (s : State) : State := { s with draws := s.draws + 1 }

/-! ## Display (10_state.md R35; 44_display.md) -/

/-- `Disp[y][x]`; false outside the grid. -/
def Display.pixel (d : Display) (x y : Nat) : Bool :=
  if h : y < 32 then (if g : x < 64 then d[y][x] else false) else false

/-- `Disp[y][x] <- not Disp[y][x]`; nothing outside the grid. -/
def Display.flip (d : Display) (x y : Nat) : Display :=
  if h : y < 32 then (if g : x < 64 then d.set y (d[y].set x (!d[y][x])) else d) else d

/-- The clear display. -/
def Display.clear : Display := Vector.replicate 32 (Vector.replicate 64 false)

/-- The display in the row-major order of the host interface: pixel (x, y) at index y * 64 + x (60_exceptions.md R309). -/
def Display.rowMajor (d : Display) (k : Nat) : Bool := Display.pixel d (k % 64) (k / 64)

/-- A draw in progress: the display so far, and whether a pixel has gone from on to off (44_display.md R234). -/
structure Blit where
  disp : Display
  hit : Bool
  deriving DecidableEq, Repr

/-- Bit `7 - k` of sprite byte `b`, at column x0 + k of row `y`: clipped past column 63, no change where the bit is 0,
else the pixel is inverted (44_display.md R231 to R234). -/
def Blit.bit (c : Blit) (b : Byte) (x0 y k : Nat) : Blit :=
  if x0 + k < 64 ∧ b.getLsbD (7 - k) = true then
    { disp := Display.flip c.disp (x0 + k) y, hit := c.hit || Display.pixel c.disp (x0 + k) y }
  else c

/-- The first `k` bits of a sprite byte, most significant first. -/
def Blit.row (c : Blit) (b : Byte) (x0 y : Nat) : Nat → Blit
  | 0 => c
  | k + 1 => (Blit.row c b x0 y k).bit b x0 y k

/-- The first `r` rows of a sprite whose bytes start at address `a`. -/
def Blit.rows (c : Blit) (m : Memory) (a x0 y0 : Nat) : Nat → Blit
  | 0 => c
  | r + 1 => (Blit.rows c m a x0 y0 r).row (m.read (a + r)) x0 (y0 + r) 8

/-! ## Register dump and load (43_index_memory.md R214, R215) -/

/-- V0 .. V(n-1) to memory at rising addresses from `a`. -/
def State.storeRegs (s : State) (a : Nat) : Nat → State
  | 0 => s
  | n + 1 => (State.storeRegs s a n).writeByte (a + n) (s.getV (BitVec.ofNat 4 n))

/-- V0 .. V(n-1) from memory at rising addresses from `a`. -/
def State.loadRegs (s : State) (a : Nat) : Nat → State
  | 0 => s
  | n + 1 => (State.loadRegs s a n).setV (BitVec.ofNat 4 n) (s.mem.read (a + n))

end Sys2Proof.Machine
end

