-- ==== Sys2Proof/Machine/Flags.lean ====
section
/-! DEFINITION. The flag computations of VF, and the order in which flag and result are written
(spec/42_alu.md R180, R187 to R191; spec/44_display.md R234). -/

namespace Sys2Proof.Machine

open Sys2Proof

/-- `bool(c)` as the byte written to VF (00_scope.md R21). -/
def flagByte (c : Bool) : Byte := if c then 1#8 else 0#8

/-- The index of VF. -/
abbrev vf : Nibble := 0xF#4

/-- Carry: the unsigned sum before truncation exceeds 255 (R187). -/
def carryOut (a b : Byte) : Bool := decide (a.toNat + b.toNat > 255)

/-- No borrow of a - b: a >= b before the operation (R188, R190). -/
def noBorrow (a b : Byte) : Bool := decide (a.toNat ≥ b.toNat)

/-- The bit SHR shifts out (R189). -/
def lowBit (a : Byte) : Bool := a.getLsbD 0

/-- The bit SHL shifts out (R191). -/
def highBit (a : Byte) : Bool := a.getLsbD 7

/-- VF <- flag, then V[x] <- result (R180): where x is F, the result stands. -/
def State.writeFlagThenResult (s : State) (x : Nibble) (flag : Bool) (result : Byte) : State :=
  (s.setV vf (flagByte flag)).setV x result

end Sys2Proof.Machine
end

