-- ==== Sys2Proof/Machine/Operands.lean ====
section
/-! DEFINITION. The operand forms: immediates, the index-plus-constant address, the values instructions compute from
them (spec/30_encoding.md R93; spec/43_index_memory.md R216). -/

namespace Sys2Proof.Machine

open Sys2Proof

/-- NNN zero-extended to 16 bits (30_encoding.md R93). -/
def zextAddr (nnn : Addr) : Word := nnn.setWidth 16

/-- A byte zero-extended to 16 bits. -/
def zextByte (b : Byte) : Word := b.setWidth 16

/-- The target of JP V0, nnn: the sum masked to the 12-bit address space (41_control_flow.md R158). -/
def offsetTarget (v0 : Byte) (nnn : Addr) : Word := (zextByte v0 + zextAddr nnn) &&& 0x0FFF#16

/-- The address of the first byte of an I-based access, not reduced (20_memory.md R64, 43_index_memory.md R216). -/
def State.base (s : State) : Nat := s.i.toNat

/-- How many registers V0 .. Vx are. -/
def regCount (x : Nibble) : Nat := x.toNat + 1

/-- The glyph address formula Vx * 5 (43_index_memory.md R212). -/
def glyphAddress (b : Byte) : Word := zextByte b * 5#16

/-- The hundreds, tens and ones digit of a byte (43_index_memory.md R213). -/
def hundredsDigit (b : Byte) : Byte := b / 100#8
def tensDigit (b : Byte) : Byte := b / 10#8 % 10#8
def onesDigit (b : Byte) : Byte := b % 10#8

/-- The start column and row of a sprite: wrap on entry (44_display.md R232). -/
def startColumn (b : Byte) : Nat := b.toNat % 64
def startRow (b : Byte) : Nat := b.toNat % 32

/-- The rows of a sprite that are on the screen; later rows are clipped (44_display.md R231, R232). -/
def rowsOnScreen (n : Nibble) (y0 : Nat) : Nat := min n.toNat (32 - y0)

end Sys2Proof.Machine
end

