-- ==== Sys2Proof/Machine/Alu.lean ====
section
/-! DEFINITION. The 8-bit ALU (spec/42_alu.md). Operands are read from the state before the instruction
(spec/40_cycle.md R138). -/

namespace Sys2Proof.Machine

open Sys2Proof

/-- LD Vx, nn (R181). -/
def execLdImm (x : Nibble) (nn : Byte) (s : State) : Result :=
  .next (s.advancePc.setV x nn)

/-- ADD Vx, nn (R182): VF is not written as a flag. -/
def execAddImm (x : Nibble) (nn : Byte) (s : State) : Result :=
  .next (s.advancePc.setV x (s.getV x + nn))

/-- LD Vx, Vy (R183). -/
def execLdReg (x y : Nibble) (s : State) : Result :=
  .next (s.advancePc.setV x (s.getV y))

/-- OR Vx, Vy (R184): VF is not written. -/
def execOrReg (x y : Nibble) (s : State) : Result :=
  .next (s.advancePc.setV x (s.getV x ||| s.getV y))

/-- AND Vx, Vy (R185): VF is not written. -/
def execAndReg (x y : Nibble) (s : State) : Result :=
  .next (s.advancePc.setV x (s.getV x &&& s.getV y))

/-- XOR Vx, Vy (R186): VF is not written. -/
def execXorReg (x y : Nibble) (s : State) : Result :=
  .next (s.advancePc.setV x (s.getV x ^^^ s.getV y))

/-- ADD Vx, Vy (R187). -/
def execAddReg (x y : Nibble) (s : State) : Result :=
  .next (s.advancePc.writeFlagThenResult x (carryOut (s.getV x) (s.getV y)) (s.getV x + s.getV y))

/-- SUB Vx, Vy (R188). -/
def execSub (x y : Nibble) (s : State) : Result :=
  .next (s.advancePc.writeFlagThenResult x (noBorrow (s.getV x) (s.getV y)) (s.getV x - s.getV y))

/-- SHR Vx (R189): the y field is ignored. -/
def execShr (x _y : Nibble) (s : State) : Result :=
  .next (s.advancePc.writeFlagThenResult x (lowBit (s.getV x)) (s.getV x >>> 1))

/-- SUBN Vx, Vy (R190). -/
def execSubn (x y : Nibble) (s : State) : Result :=
  .next (s.advancePc.writeFlagThenResult x (noBorrow (s.getV y) (s.getV x)) (s.getV y - s.getV x))

/-- SHL Vx (R191): the y field is ignored. -/
def execShl (x _y : Nibble) (s : State) : Result :=
  .next (s.advancePc.writeFlagThenResult x (highBit (s.getV x)) (s.getV x <<< 1))

/-- RND Vx, nn (R193): one draw per execution, whatever nn is. -/
def execRnd (x : Nibble) (nn : Byte) (s : State) : Result :=
  .next (s.advancePc.afterRandByte.setV x (s.nextRandByte &&& nn))

end Sys2Proof.Machine
end

