-- ==== Sys2Proof/Machine/Control.lean ====
section
/-! DEFINITION. Control flow and the no-op word (spec/41_control_flow.md; spec/40_cycle.md R136). Every meaning takes the
state in which PC is PC0, the address of the instruction. -/

namespace Sys2Proof.Machine

open Sys2Proof

/-- RET (R150). -/
def execRet (s : State) : Result :=
  attempt .ret s s.popCheck (s.advancePc.dropTop.setPc s.top)

/-- JP nnn (R151). -/
def execJp (nnn : Addr) (s : State) : Result :=
  .next (s.advancePc.setPc (zextAddr nnn))

/-- CALL nnn (R152): the pushed value is the advanced PC, PC0 + 2. -/
def execCall (nnn : Addr) (s : State) : Result :=
  attempt (.call nnn) s (s.pushCheck s.advancePc.pc) ((s.advancePc.push s.advancePc.pc).setPc (zextAddr nnn))

/-- SE Vx, nn (R153). -/
def execSeImm (x : Nibble) (nn : Byte) (s : State) : Result :=
  .next (s.skipIf (s.getV x == nn))

/-- SNE Vx, nn (R154). -/
def execSneImm (x : Nibble) (nn : Byte) (s : State) : Result :=
  .next (s.skipIf (s.getV x != nn))

/-- SE Vx, Vy (R155). -/
def execSeReg (x y : Nibble) (s : State) : Result :=
  .next (s.skipIf (s.getV x == s.getV y))

/-- SNE Vx, Vy (R157): the low nibble is ignored. -/
def execSneReg (x y _n : Nibble) (s : State) : Result :=
  .next (s.skipIf (s.getV x != s.getV y))

/-- JP V0, nnn (R158). -/
def execJpV0 (nnn : Addr) (s : State) : Result :=
  .next (s.advancePc.setPc (offsetTarget (s.getV 0x0#4) nnn))

/-- A word of class NOP_UNKNOWN (40_cycle.md R136). -/
def execNop (_w : Word) (s : State) : Result :=
  .next s.advancePc

end Sys2Proof.Machine
end

