-- ==== Sys2Proof/Machine/Draw.lean ====
section
/-! DEFINITION. The display clear and the XOR-blit engine (spec/44_display.md). -/

namespace Sys2Proof.Machine

open Sys2Proof

/-- CLS (R230): VF is not written. -/
def execCls (s : State) : Result :=
  .next (s.advancePc.setDisp Display.clear)

/-- The draw of DRW Vx, Vy, n from a state: the display it leaves and its collision (R231 to R234). The coordinates come
from the registers before VF is written. -/
def State.drawSprite (s : State) (x y n : Nibble) : Blit :=
  Blit.rows { disp := s.disp, hit := false } s.mem s.base (startColumn (s.getV x)) (startRow (s.getV y))
    (rowsOnScreen n (startRow (s.getV y)))

/-- DRW Vx, Vy, n (R231): only the bytes of rows on the screen are read, so only they are checked (R235). -/
def execDrw (x y n : Nibble) (s : State) : Result :=
  attempt (.drw x y n) s (addressCheck s.base (rowsOnScreen n (startRow (s.getV y))))
    ((s.advancePc.setDisp (s.drawSprite x y n).disp).setV vf (flagByte (s.drawSprite x y n).hit))

end Sys2Proof.Machine
end

