-- ==== Sys2Proof/Machine/IndexMemory.lean ====
section
/-! DEFINITION. The index register and the memory instructions (spec/43_index_memory.md). Every address is checked
before the first write (spec/40_cycle.md R137). -/

namespace Sys2Proof.Machine

open Sys2Proof

/-- LD I, nnn (R210). -/
def execLdI (nnn : Addr) (s : State) : Result :=
  .next (s.advancePc.setI (zextAddr nnn))

/-- ADD I, Vx (R211): VF is not written. -/
def execAddI (x : Nibble) (s : State) : Result :=
  .next (s.advancePc.setI (s.i + zextByte (s.getV x)))

/-- LD F, Vx (R212). -/
def execLdF (x : Nibble) (s : State) : Result :=
  if (s.getV x).toNat > 15 ∧ s.fx29High = .draw then .next (s.advancePc.afterFontAddress.setI s.nextFontAddress)
  else .next (s.advancePc.setI (glyphAddress (s.getV x)))

/-- LD B, Vx (R213): hundreds, tens and ones at I, I + 1, I + 2. -/
def execLdB (x : Nibble) (s : State) : Result :=
  attempt (.ldB x) s (addressCheck s.base 3)
    (((s.advancePc.writeByte s.base (hundredsDigit (s.getV x))).writeByte (s.base + 1)
      (tensDigit (s.getV x))).writeByte (s.base + 2) (onesDigit (s.getV x)))

/-- LD [I], Vx (R214): I is unchanged. -/
def execLdMemVx (x : Nibble) (s : State) : Result :=
  attempt (.ldMemVx x) s (addressCheck s.base (regCount x)) (s.advancePc.storeRegs s.base (regCount x))

/-- LD Vx, [I] (R215): I is unchanged. -/
def execLdVxMem (x : Nibble) (s : State) : Result :=
  attempt (.ldVxMem x) s (addressCheck s.base (regCount x)) (s.advancePc.loadRegs s.base (regCount x))

end Sys2Proof.Machine
end

