-- ==== Sys2Proof/Machine/KeypadTimer.lean ====
section
/-! DEFINITION. The keypad and timer instructions (spec/45_keypad_timer.md). -/

namespace Sys2Proof.Machine

open Sys2Proof

/-- SKP Vx (R250, R256). -/
def execSkp (x : Nibble) (s : State) : Result :=
  attempt (.skp x) s (keyCheck (s.getV x)) (s.skipIf (s.keyDown (s.getV x).toNat))

/-- SKNP Vx (R251, R256). -/
def execSknp (x : Nibble) (s : State) : Result :=
  attempt (.sknp x) s (keyCheck (s.getV x)) (s.skipIf (!s.keyDown (s.getV x).toNat))

/-- LD Vx, K (R252): with no key pressed PC goes back by 2 to PC0, so that the same word runs again. -/
def execLdVxK (x : Nibble) (s : State) : Result :=
  match s.lowestKey with
  | some k => .next (s.advancePc.setV x (BitVec.ofNat 8 k))
  | none => .next (s.advancePc.setPc (s.advancePc.pc - 2#16))

/-- LD Vx, DT (R253). -/
def execLdVxDt (x : Nibble) (s : State) : Result :=
  .next (s.advancePc.setV x s.dt)

/-- LD DT, Vx (R254). -/
def execLdDtVx (x : Nibble) (s : State) : Result :=
  .next (s.advancePc.setDt (s.getV x))

/-- LD ST, Vx (R255). -/
def execLdStVx (x : Nibble) (s : State) : Result :=
  .next (s.advancePc.setSt (s.getV x))

end Sys2Proof.Machine
end

