-- ==== Sys2Proof/Machine/Frame.lean ====
section
/-! DEFINITION. The cycle, the timers, the frame and its tick synchronizer, and the host interface
(spec/40_cycle.md R130, R137, R140; spec/60_exceptions.md R285 to R313). `frame` is the spec's whole frame; `advance`
runs the same frame one cycle slot at a time and is what `step` calls. -/

namespace Sys2Proof.Machine

open Sys2Proof

/-- One cycle (40_cycle.md R130): fetch, decode, the instruction. A fetch fault is taken with no word. -/
def cycle (s : State) : Result :=
  match s.fetch with
  | .error e => .next (s.takeFault none e)
  | .ok w => exec (decode w) s

/-- The timer decrement, each timer floored at 0 (60_exceptions.md R285). -/
def timerTick (s : State) : State :=
  { s with
    dt := if s.dt = 0#8 then s.dt else s.dt - 1#8
    st := if s.st = 0#8 then s.st else s.st - 1#8 }

/-- What the core presents (R309 to R311). -/
def State.outputs (s : State) : Outputs :=
  { framebuffer := s.disp, soundActive := s.st != 0#8, runState := s.runState, fault := s.fault }

/-- The outputs presented at a frame end. -/
def State.present (s : State) : State := { s with presented := some s.outputs }

/-! ## Frame start (R290, R293, R306, R307) -/

/-- What the host sends for the next frame: the first input it has lined up, else a free value. -/
def State.nextInput (s : State) : FrameInput := s.inputs.headD (Config.frameInput s.frames)

/-- The state after the host's input for a frame is taken. -/
def State.afterInput (s : State) : State := { s with inputs := s.inputs.tail, frames := s.frames + 1 }

/-- The pause toggle of R293. -/
def RunState.toggled : RunState → RunState
  | .running => .paused
  | .paused => .running
  | .halted => .halted

/-- The events of a frame start: quit first, then the pause toggle, then the key latch; no batch is open yet. -/
def State.startFrame (s : State) (f : FrameInput) : State :=
  if f.quit then { s with runState := .halted, left := 0 }
  else
    { s with
      runState := if f.pauseToggle then s.runState.toggled else s.runState
      keys := f.keys
      left := 0 }

/-! ## The spec's frame (R290) -/

/-- `repeat n times: Cycle()`, ended early by a fault (R292). -/
def cycles : Nat → State → Result
  | 0, s => .next s
  | n + 1, s =>
    match cycle s with
    | .next t => if t.runState = .halted then .next t else cycles n t
    | .fault r => .fault r
    | .refused r => .refused r

/-- The rest of a frame after its batch: a batch that faulted has no timer tick (R286, R292). -/
def State.endFrame (s : State) : State :=
  if s.runState = .halted then s.present else (timerTick s).present

/-- Frame(keys_in, pause_toggle, quit), with the outputs it returns left in `presented` (R290). -/
def frame (f : FrameInput) (s : State) : Result :=
  if s.runState = .halted then .next s.present
  else
    let t := s.startFrame f
    if t.runState = .running then
      match cycles t.k t with
      | .next u => .next u.endFrame
      | .fault r => .fault r
      | .refused r => .refused r
    else .next t.present

/-! ## One cycle slot at a time -/

/-- What a step does: one cycle of a batch, or the end of a frame that has no cycle to run. -/
inductive Slot where
  | cycle (s : State)
  | frameOver (s : State)
  deriving DecidableEq, Repr

/-- The next slot. Inside a batch of a Running core it is the next cycle. At a frame start the host's input is taken and
its events happen; then it is the first cycle of the batch, or the frame is over: halted, paused, or K = 0. A Halted core
looks at no input (R278, R295). -/
def State.nextSlot (s : State) : Slot :=
  if s.runState = .halted then .frameOver s
  else if s.runState = .running ∧ s.left ≠ 0 then .cycle s
  else
    let t := s.afterInput.startFrame s.nextInput
    if t.runState = .running then
      if t.k = 0 then .frameOver (timerTick t) else .cycle { t with left := t.k }
    else .frameOver t

/-- After a cycle: one slot of the batch is used; a fault or the last slot ends the frame. -/
def State.afterCycle (s : State) : State :=
  if s.runState = .halted ∨ s.left ≤ 1 then State.endFrame { s with left := 0 } else { s with left := s.left - 1 }

/-- One slot. -/
def advance (s : State) : Result :=
  match s.nextSlot with
  | .frameOver t => .next t.present
  | .cycle t =>
    match cycle t with
    | .next u => .next u.afterCycle
    | .fault r => .fault r
    | .refused r => .refused r

/-! ## The optional observer port (R312): a function of the state, so it changes nothing -/

structure ObserverEvent where
  pc0 : Word
  word : Word
  record : Decoded
  deriving DecidableEq, Repr

/-- The event of the cycle the next slot runs; none where it runs none or its fetch faults. -/
def State.observerEvent (s : State) : Option ObserverEvent :=
  match s.nextSlot with
  | .frameOver _ => none
  | .cycle t =>
    match t.fetch with
    | .error _ => none
    | .ok w => some { pc0 := t.pc, word := w, record := decodedRecord w }

/-! ## Placing one instruction -/

/-- The state with word `w` where the next cycle fetches, inside a Running batch; a PC whose two bytes are not in
memory is set to the reset vector first. -/
def State.placeFetchWord (s : State) (w : Word) : State :=
  let p : Word := if s.pc.toNat + 1 < memSize then s.pc else 0x200#16
  { s with
    pc := p
    mem := s.mem.writeList p.toNat [highByte w, lowByte w]
    runState := .running
    left := if s.left = 0 then max s.k 1 else s.left }

end Sys2Proof.Machine
end

