-- ==== Sys2Proof/Machine/Step.lean ====
section
/-! DEFINITION. The step: one cycle slot of a frame (Frame.lean), and the host's probe of one instruction. -/

namespace Sys2Proof.Machine

open Sys2Proof

/-- One step of the core. -/
def step (s : State) : Host.Outcome State Fault Refusal := advance s

/-- `s` with one instruction where `step` fetches next. Every instruction is one 16-bit word. -/
def State.withFetchWord (s : State) (_nbits w : Nat) : State := s.placeFetchWord (BitVec.ofNat 16 w)

end Sys2Proof.Machine
end

