-- ==== Sys2Proof/Machine/Load.lean ====
section
/-! DEFINITION. The load (spec/70_reset_and_hazards.md R320 to R323). -/

namespace Sys2Proof.Machine

open Sys2Proof

/-- MAX_IMAGE (00_scope.md R12). -/
abbrev maxImage : Nat := 3584

/-- PROGRAM_BASE (00_scope.md R11). -/
abbrev programBase : Nat := 0x200

/-- The 80 bytes of a configured FONT: glyph 0 is fixed (00_scope.md R18). -/
def Config.fontBytes (c : Config) : List Byte := fontGlyph0 ++ c.glyphs.toList

/-- The memory a load builds: 0, then FONT at 0x000, then the image at 0x200 (R323). -/
def loadedMemory (c : Config) (image : List Byte) : Memory :=
  Memory.writeList (Memory.writeList [] 0 (Config.fontBytes c)) programBase image

/-- The load. `none` is an image that cannot be read (R321). A configuration with TICK_RATE = 0 is refused (R320). -/
def load (image : Option (List Byte)) (c : Config) : Result :=
  if c.tickRate = 0 then .refused .tickRateZero
  else
    match image with
    | none => .fault .romLoadError
    | some bytes =>
      if bytes.length > maxImage then .fault .romLoadError
      else
        .next
          { State.reset with
            mem := loadedMemory c bytes
            k := c.ips / c.tickRate
            fx29High := c.fx29High }

/-- The default configuration (00_scope.md R18, R19; 43_index_memory.md R212). -/
def Config.default : Config :=
  { ips := Config.defaultIps
    tickRate := Config.defaultTickRate
    fx29High := .formula
    glyphs := ⟨(fontGlyphs1to8 ++ fontGlyphs9toF).toArray, by decide⟩ }

end Sys2Proof.Machine
end

