-- ==== Sys2Proof/WellFormed.lean ====
section
/-! DEFINITION. Which instructions are well formed (spec/30_encoding.md R104, R106): the fields of every other
constructor have exactly the widths of R91, so the one check is on the word of a no-op. -/

namespace Sys2Proof

/-- A no-op word matches no instruction row of R106; every other instruction is well formed. -/
def Instr.wellFormed : Instr → Bool
  | .nop w => opcodeTable.all fun r => !r.matches w
  | _ => true

end Sys2Proof
end

