-- ==== Sys2Proof/Safety.lean ====
section
/-! DEFINITION. The terms the claims use: what an instruction may change, how a fault looks, the invariant of the core,
and the discipline the spec asks of correct programs. -/

namespace Sys2Proof.Machine

open Sys2Proof

/-! ## Frames -/

/-- What an instruction may change besides PC: registers, bytes of memory, and the other parts of the state. -/
structure Changes where
  v : Nibble → Bool
  mem : Nat → Bool
  i : Bool
  stack : Bool
  disp : Bool
  dt : Bool
  st : Bool
  rng : Bool
  draws : Bool

/-- Nothing but PC. -/
def Changes.pcOnly : Changes :=
  { v := fun _ => false, mem := fun _ => false, i := false, stack := false, disp := false, dt := false, st := false,
    rng := false, draws := false }

/-- One register. -/
def Changes.reg (x : Nibble) : Changes := { Changes.pcOnly with v := fun z => z == x }

/-- One register and VF. -/
def Changes.regAndVf (x : Nibble) : Changes := { Changes.pcOnly with v := fun z => z == x || z == vf }

/-- The registers V0 to Vx. -/
def Changes.regsUpTo (x : Nibble) : Changes := { Changes.pcOnly with v := fun z => decide (z.toNat ≤ x.toNat) }

/-- I. -/
def Changes.index : Changes := { Changes.pcOnly with i := true }

/-- `n` bytes of memory from address `a` on. -/
def Changes.bytes (a n : Nat) : Changes := { Changes.pcOnly with mem := fun b => decide (a ≤ b ∧ b < a + n) }

/-- Everything outside `c` is as before. PC, the run state and the fault latch are not spoken of. -/
structure Keeps (c : Changes) (s t : State) : Prop where
  v : ∀ z, c.v z = false → t.getV z = s.getV z
  mem : ∀ a, c.mem a = false → t.mem.read a = s.mem.read a
  i : c.i = false → t.i = s.i
  stack : c.stack = false → t.stack = s.stack ∧ t.sp = s.sp
  disp : c.disp = false → t.disp = s.disp
  dt : c.dt = false → t.dt = s.dt
  st : c.st = false → t.st = s.st
  rng : c.rng = false → t.rng = s.rng
  draws : c.draws = false → t.draws = s.draws
  keys : t.keys = s.keys
  config : t.k = s.k ∧ t.fx29High = s.fx29High
  batch : t.left = s.left
  host : t.inputs = s.inputs ∧ t.frames = s.frames ∧ t.presented = s.presented

/-- No fault was taken. -/
def Unfaulted (s t : State) : Prop := t.runState = s.runState ∧ t.fault = s.fault

/-- Fault entry from `s` (40_cycle.md R137): PC0 kept, the core halted, the first fault kept in the latch, nothing else
changed. -/
structure FaultTaken (code : FaultCode) (word : Option Word) (detail : Nat) (s t : State) : Prop where
  pc : t.pc = s.pc
  halted : t.runState = .halted
  latch : t.fault = if s.fault = none then some { code := code, pc := s.pc, word := word, detail := detail } else s.fault
  rest : Keeps Changes.pcOnly s t

/-- The column "written" of the access matrix (10_state.md R43). -/
def Instr.writes (s : State) : Instr → Changes
  | .cls => { Changes.pcOnly with disp := true }
  | .ret | .call _ => { Changes.pcOnly with stack := true }
  | .jp _ | .jpV0 _ | .seImm _ _ | .sneImm _ _ | .seReg _ _ | .sneReg _ _ _ | .skp _ | .sknp _ | .nop _ => Changes.pcOnly
  | .ldImm x _ | .addImm x _ | .ldReg x _ | .orReg x _ | .andReg x _ | .xorReg x _ | .ldVxDt x | .ldVxK x => Changes.reg x
  | .addReg x _ | .sub x _ | .shr x _ | .subn x _ | .shl x _ => Changes.regAndVf x
  | .ldI _ | .addI _ => Changes.index
  | .ldF _ => { Changes.index with draws := true }
  | .rnd x _ => { Changes.reg x with rng := true, draws := true }
  | .drw _ _ _ => { Changes.reg vf with disp := true }
  | .ldDtVx _ => { Changes.pcOnly with dt := true }
  | .ldStVx _ => { Changes.pcOnly with st := true }
  | .ldB _ => Changes.bytes s.base 3
  | .ldMemVx x => Changes.bytes s.base (regCount x)
  | .ldVxMem x => Changes.regsUpTo x

/-! ## Faults an instruction must take (60_exceptions.md R270) -/

/-- The first address outside the memory among `n` addresses from `a` on. -/
def firstOutside (a n : Nat) : Option Nat := ((List.range n).map (a + ·)).find? fun b => decide (memSize ≤ b)

/-- The table of R270: which instruction faults, when, and with which detail. -/
def Instr.faultOf (s : State) : Instr → Option (FaultCode × Nat)
  | .call _ => if s.sp.val = 12 then some (.stackOverflow, (s.pc + 2#16).toNat) else none
  | .ret => if s.sp.val = 0 then some (.stackUnderflow, 0) else none
  | .drw _ y n => (firstOutside s.base (rowsOnScreen n (startRow (s.getV y)))).map (Prod.mk .addressOutOfRange)
  | .ldB _ => (firstOutside s.base 3).map (Prod.mk .addressOutOfRange)
  | .ldMemVx x | .ldVxMem x => (firstOutside s.base (regCount x)).map (Prod.mk .addressOutOfRange)
  | .skp x | .sknp x => if 15 < (s.getV x).toNat then some (.keyIndexOutOfRange, (s.getV x).toNat) else none
  | .cls | .jp _ | .seImm _ _ | .sneImm _ _ | .seReg _ _ | .ldImm _ _ | .addImm _ _ | .ldReg _ _ | .orReg _ _
  | .andReg _ _ | .xorReg _ _ | .addReg _ _ | .sub _ _ | .shr _ _ | .subn _ _ | .shl _ _ | .sneReg _ _ _ | .ldI _
  | .jpV0 _ | .rnd _ _ | .ldVxDt _ | .ldVxK _ | .ldDtVx _ | .ldStVx _ | .addI _ | .ldF _ | .nop _ => none

/-! ## Sprites -/

/-- The bit of a sprite of `n` rows at address `a` that lies at column `x`, row `y` of the screen, for a start position
(x0, y0): row y - y0 of the sprite, bit 7 its leftmost (44_display.md R232, R233). Nothing lies off the screen. -/
def spriteBit (m : Memory) (a n x0 y0 x y : Nat) : Bool :=
  decide (x < 64 ∧ y < 32 ∧ x0 ≤ x ∧ x < x0 + 8 ∧ y0 ≤ y ∧ y < y0 + n) && (m.read (a + (y - y0))).getLsbD (7 - (x - x0))

/-- The sprite bit DRW Vx, Vy, n puts at column `cx`, row `cy`. -/
def State.spriteBitAt (s : State) (x y n : Nibble) (cx cy : Nat) : Bool :=
  spriteBit s.mem s.base n.toNat (startColumn (s.getV x)) (startRow (s.getV y)) cx cy

/-- No byte DRW reads lies outside the memory (44_display.md R235). -/
def State.spriteReadable (s : State) (y n : Nibble) : Prop :=
  rowsOnScreen n (startRow (s.getV y)) = 0 ∨ s.base + rowsOnScreen n (startRow (s.getV y)) ≤ memSize

/-! ## The invariant -/

/-- What holds of every state of the core after load. -/
structure State.Inv (s : State) : Prop where
  memCanonical : s.mem.wf = true
  slotsLeft : s.left ≤ s.k
  closedBatch : s.runState ≠ .running → s.left = 0
  faultHalts : s.fault ≠ none → s.runState = .halted
  faultPc : ∀ r, s.fault = some r → r.pc = s.pc
  haltPresented : s.runState = .halted → s.presented = some s.outputs
  pcBound : s.pc.toNat ≤ 0x1002
  stackBound : ∀ k, (h : k < 12) → s.stack[k].toNat ≤ 0x1000

/-- A run is safe while no fault is latched. -/
def State.Safe (s : State) : Prop := s.fault = none

/-- The discipline of correct programs, which the core does not check (90_conflicts.md C2): an even PC in
0x200 .. 4094 before each fetch. -/
def State.pcDisciplined (s : State) : Prop := s.pc.toNat % 2 = 0 ∧ 0x200 ≤ s.pc.toNat ∧ s.pc.toNat ≤ 4094

end Sys2Proof.Machine
end

