-- ==== Sys2Proof/Certificates/Slice0/Obligations.lean ====
section
/-! DEFINITION. The statements for the provers. Each docstring names the rule of spec/ or says that the statement rests
on a decision or an inference the spec marks as its own. -/

open Sys2Proof Sys2Proof.Machine

/-! ## Encoding -/

/-- Decoding the word of a well-formed instruction gives the instruction back, with every operand at every value
(the spec's own inference 30_encoding.md R103, R106). -/
def Obligations.EncodeThenDecode : Prop :=
  ∀ i : Instr, i.wellFormed = true → decode (encode i) = i

/-- Every one of the 65536 words decodes to a well-formed instruction whose word it is (30_encoding.md sections 2, 4). -/
def Obligations.DecodeThenEncode : Prop :=
  ∀ w : Word, (decode w).wellFormed = true ∧ encode (decode w) = w

/-- The decoder of R103 and the opcode map of R106 are the same function: a word matches a row iff it decodes to the
row's class, and it is a no-op word iff it matches none (30_encoding.md sections 2, 4). -/
def Obligations.DecoderFollowsOpcodeMap : Prop :=
  ∀ w : Word,
    (∀ r ∈ opcodeTable, r.matches w = true ↔ (decode w).opClass = r.opClass) ∧
    ((decode w).opClass = .nopUnknown ↔ ∀ r ∈ opcodeTable, r.matches w = false)

/-- Words written out in the spec decode to what the spec says they are (30_encoding.md section 6). -/
def Obligations.SampleWordsDecode : Prop :=
  decode 0x6102#16 = .ldImm 1#4 2#8 ∧ decode 0x2208#16 = .call 0x208#12 ∧ decode 0xF11E#16 = .addI 1#4 ∧
  decode 0x00E0#16 = .cls ∧ decode 0x00E1#16 = .nop 0x00E1#16 ∧ decode 0x5120#16 = .seReg 1#4 2#4 ∧
  decode 0x5121#16 = .nop 0x5121#16 ∧ decode 0x9121#16 = .sneReg 1#4 2#4 1#4 ∧ decode 0x8AB8#16 = .nop 0x8AB8#16 ∧
  decode 0x8ABE#16 = .shl 0xA#4 0xB#4 ∧ decode 0xF175#16 = .nop 0xF175#16 ∧ decode 0xD015#16 = .drw 0#4 1#4 5#4

/-! ## Fetch, cycle, step -/

/-- A step runs the instruction that the two bytes at PC decode to (the byte at the lower address is the high one), from
the state itself inside a batch, and from the state the frame's events leave at a frame start; the instruction answers a
state, and after it one slot of the batch is used (40_cycle.md section 1, 60_exceptions.md section 4; one step per cycle
is the model's choice, log entry 1). -/
def Obligations.StepRunsTheDecodedInstruction : Prop :=
  (∀ (s : State) (i : Instr), s.runState = .running → s.left ≠ 0 → s.pc.toNat + 1 < 4096 →
    decode (wordOfBytes (s.mem.read s.pc.toNat) (s.mem.read (s.pc.toNat + 1))) = i →
    ∃ t, exec i s = .next t ∧ step s = .next t.afterCycle) ∧
  (∀ (s b : State) (i : Instr), s.runState ≠ .halted → (s.runState = .running → s.left = 0) →
    b = s.afterInput.startFrame s.nextInput → b.runState = .running → s.k ≠ 0 → s.pc.toNat + 1 < 4096 →
    decode (wordOfBytes (s.mem.read s.pc.toNat) (s.mem.read (s.pc.toNat + 1))) = i →
    ∃ t, exec i { b with left := s.k } = .next t ∧ step s = .next t.afterCycle)

/-- A fetch whose second byte is outside the memory takes the fault AddressOutOfRange with no word, and the detail is the
first of the two addresses that is outside (the spec's own decisions D5 and D6). -/
def Obligations.FetchOutsideMemoryFaults : Prop :=
  ∀ s : State, 4096 ≤ s.pc.toNat + 1 →
    ∃ t, cycle s = .next t ∧
      FaultTaken .addressOutOfRange none (if 4096 ≤ s.pc.toNat then s.pc.toNat else s.pc.toNat + 1) s t

/-- Two bytes stored by a register dump or by a BCD store are what the next fetch of them gives (20_memory.md section 5;
the encodings of the two stores are the spec's from general knowledge, log entry 7). -/
def Obligations.StoresAreSeenByTheNextFetch : Prop :=
  (∀ (s t u : State) (x : Nibble) (k : Nat), exec (.ldMemVx x) s = .next t → Unfaulted s t → t.runState = .running →
    k + 1 ≤ x.toNat → u.mem = t.mem → u.pc.toNat = s.base + k →
    u.fetch = .ok (wordOfBytes (s.getV (BitVec.ofNat 4 k)) (s.getV (BitVec.ofNat 4 (k + 1))))) ∧
  (∀ (s t u : State) (x : Nibble), exec (.ldB x) s = .next t → Unfaulted s t → t.runState = .running →
    u.mem = t.mem → u.pc = s.i → ∃ hi lo : Byte, u.fetch = .ok (wordOfBytes hi lo) ∧
      hi.toNat = (s.getV x).toNat / 100 ∧ lo.toNat = (s.getV x).toNat / 10 % 10)

/-! ## Control flow -/

/-- R136: a word of class NOP_UNKNOWN leaves PC = PC0 + 2, changes no other state and raises no fault. -/
def Obligations.UnknownWordOnlyAdvancesPc : Prop :=
  ∀ (w : Word) (s : State), (decode w).opClass = .nopUnknown →
    ∃ t, exec (decode w) s = .next t ∧ t.pc = s.pc + 2#16 ∧ Unfaulted s t ∧ Keeps Changes.pcOnly s t

/-- JP and JP V0: the target, the second masked to 12 bits, and nothing else (41_control_flow.md; the encodings are the
spec's from general knowledge, the mask its decision D32). -/
def Obligations.JumpsSetPcOnly : Prop :=
  ∀ (nnn : Addr) (s : State),
    (decode (wordNNN 0x1#4 nnn) = .jp nnn ∧
      ∃ t, exec (.jp nnn) s = .next t ∧ t.pc.toNat = nnn.toNat ∧ Unfaulted s t ∧ Keeps Changes.pcOnly s t) ∧
    (decode (wordNNN 0xB#4 nnn) = .jpV0 nnn ∧
      ∃ t, exec (.jpV0 nnn) s = .next t ∧ t.pc.toNat = ((s.getV 0#4).toNat + nnn.toNat) % 4096 ∧ Unfaulted s t ∧
        Keeps Changes.pcOnly s t)

/-- CALL pushes PC0 + 2 and jumps; with twelve entries on the stack it takes StackOverflow (41_control_flow.md R152,
10_state.md R41; that a fault is precise and latched is the spec's decision D7, its code D8). -/
def Obligations.CallPushesOrOverflows : Prop :=
  ∀ (nnn : Addr) (s : State),
    decode (wordNNN 0x2#4 nnn) = .call nnn ∧
    (s.sp.val < 12 →
      ∃ t, exec (.call nnn) s = .next t ∧ t.pc.toNat = nnn.toNat ∧ t.sp.val = s.sp.val + 1 ∧
        (∀ k, (h : k < 12) → t.stack[k] = if k = s.sp.val then s.pc + 2#16 else s.stack[k]) ∧ Unfaulted s t ∧
        Keeps { Changes.pcOnly with stack := true } s t) ∧
    (s.sp.val = 12 →
      ∃ t, exec (.call nnn) s = .next t ∧
        FaultTaken .stackOverflow (some (wordNNN 0x2#4 nnn)) (s.pc + 2#16).toNat s t)

/-- RET pops PC from the stack and leaves the entry in place; with an empty stack it takes StackUnderflow
(41_control_flow.md R150, 10_state.md R42; the entry left in place is the spec's decision D31, the fault D7 and D8). -/
def Obligations.ReturnPopsOrUnderflows : Prop :=
  decode 0x00EE#16 = .ret ∧
  ∀ s : State,
    (∀ k, (h : k < 12) → s.sp.val = k + 1 →
      ∃ t, exec .ret s = .next t ∧ t.pc = s.stack[k] ∧ t.sp.val = k ∧ t.stack = s.stack ∧ Unfaulted s t ∧
        Keeps { Changes.pcOnly with stack := true } s t) ∧
    (s.sp.val = 0 → ∃ t, exec .ret s = .next t ∧ FaultTaken .stackUnderflow (some 0x00EE#16) 0 s t)

/-- A CALL and the RET after it come back to PC0 + 2 with the stack depth and every live entry as before
(41_control_flow.md section of R150, R152; 95_test_vectors.md S2). -/
def Obligations.CallThenReturnRestores : Prop :=
  ∀ (nnn : Addr) (s : State), s.sp.val < 12 →
    ∃ t u, exec (.call nnn) s = .next t ∧ exec .ret t = .next u ∧ u.pc = s.pc + 2#16 ∧ u.sp = s.sp ∧
      (∀ k, (h : k < 12) → k < s.sp.val → u.stack[k] = s.stack[k]) ∧ Unfaulted s u ∧
      Keeps { Changes.pcOnly with stack := true } s u

/-- SE and SNE with an immediate: 2 more when the condition holds, and nothing else (41_control_flow.md; the encodings
are the spec's from general knowledge). -/
def Obligations.SkipsOnImmediate : Prop :=
  ∀ (x : Nibble) (nn : Byte) (s : State),
    (decode (wordXNN 0x3#4 x nn) = .seImm x nn ∧
      ∃ t, exec (.seImm x nn) s = .next t ∧ t.pc = (if s.getV x = nn then s.pc + 4#16 else s.pc + 2#16) ∧
        Unfaulted s t ∧ Keeps Changes.pcOnly s t) ∧
    (decode (wordXNN 0x4#4 x nn) = .sneImm x nn ∧
      ∃ t, exec (.sneImm x nn) s = .next t ∧ t.pc = (if s.getV x = nn then s.pc + 2#16 else s.pc + 4#16) ∧
        Unfaulted s t ∧ Keeps Changes.pcOnly s t)

/-- SE and SNE with two registers: SE only with low nibble 0 (another nibble is a no-op word), SNE with any
(41_control_flow.md; the spec's decision D33). -/
def Obligations.SkipsOnRegisters : Prop :=
  ∀ (x y n : Nibble) (s : State),
    (decode (wordXYN 0x5#4 x y 0#4) = .seReg x y ∧
      (n ≠ 0#4 → decode (wordXYN 0x5#4 x y n) = .nop (wordXYN 0x5#4 x y n)) ∧
      ∃ t, exec (.seReg x y) s = .next t ∧ t.pc = (if s.getV x = s.getV y then s.pc + 4#16 else s.pc + 2#16) ∧
        Unfaulted s t ∧ Keeps Changes.pcOnly s t) ∧
    (decode (wordXYN 0x9#4 x y n) = .sneReg x y n ∧
      ∃ t, exec (.sneReg x y n) s = .next t ∧ t.pc = (if s.getV x = s.getV y then s.pc + 2#16 else s.pc + 4#16) ∧
        Unfaulted s t ∧ Keeps Changes.pcOnly s t)

/-! ## ALU -/

/-- R181, R182: LD Vx, nn and ADD Vx, nn, which has no flag effect even when it wraps. -/
def Obligations.ImmediateLoadAndAdd : Prop :=
  ∀ (x : Nibble) (nn : Byte) (s : State),
    (decode (wordXNN 0x6#4 x nn) = .ldImm x nn ∧
      ∃ t, exec (.ldImm x nn) s = .next t ∧ t.getV x = nn ∧ t.pc = s.pc + 2#16 ∧ Unfaulted s t ∧
        Keeps (Changes.reg x) s t) ∧
    (decode (wordXNN 0x7#4 x nn) = .addImm x nn ∧
      ∃ t, exec (.addImm x nn) s = .next t ∧ (t.getV x).toNat = ((s.getV x).toNat + nn.toNat) % 256 ∧
        t.pc = s.pc + 2#16 ∧ Unfaulted s t ∧ Keeps (Changes.reg x) s t)

/-- LD, OR, AND and XOR of two registers, bit by bit; VF is written only where it is Vx (42_alu.md section 3; the
encodings are the spec's from general knowledge, VF unchanged its decision D3). -/
def Obligations.AssignAndLogic : Prop :=
  ∀ (x y : Nibble) (s : State),
    (∃ t, exec (.ldReg x y) s = .next t ∧ t.getV x = s.getV y ∧ t.pc = s.pc + 2#16 ∧ Unfaulted s t ∧
      Keeps (Changes.reg x) s t) ∧
    (∃ t, exec (.orReg x y) s = .next t ∧
      (∀ j < 8, (t.getV x).getLsbD j = ((s.getV x).getLsbD j || (s.getV y).getLsbD j)) ∧ t.pc = s.pc + 2#16 ∧
      Unfaulted s t ∧ Keeps (Changes.reg x) s t) ∧
    (∃ t, exec (.andReg x y) s = .next t ∧
      (∀ j < 8, (t.getV x).getLsbD j = ((s.getV x).getLsbD j && (s.getV y).getLsbD j)) ∧ t.pc = s.pc + 2#16 ∧
      Unfaulted s t ∧ Keeps (Changes.reg x) s t) ∧
    (∃ t, exec (.xorReg x y) s = .next t ∧
      (∀ j < 8, (t.getV x).getLsbD j = ((s.getV x).getLsbD j ^^ (s.getV y).getLsbD j)) ∧ t.pc = s.pc + 2#16 ∧
      Unfaulted s t ∧ Keeps (Changes.reg x) s t)

/-- ADD Vx, Vy: the sum modulo 256, VF = 1 iff it exceeds 255; where x is F the sum stands in VF
(42_alu.md section 3; the spec's decision D1). -/
def Obligations.AddSetsCarry : Prop :=
  ∀ (x y : Nibble) (s : State),
    ∃ t, exec (.addReg x y) s = .next t ∧
      (t.getV x).toNat = ((s.getV x).toNat + (s.getV y).toNat) % 256 ∧
      (x ≠ vf → t.getV vf = if 255 < (s.getV x).toNat + (s.getV y).toNat then 1#8 else 0#8) ∧
      t.pc = s.pc + 2#16 ∧ Unfaulted s t ∧ Keeps (Changes.regAndVf x) s t

/-- SUB and SUBN: the difference modulo 256, VF = 1 iff there is no borrow; where x is F the difference stands in VF
(42_alu.md section 3; the spec's decision D1). -/
def Obligations.SubtractionsSetNoBorrow : Prop :=
  ∀ (x y : Nibble) (s : State),
    (∃ t, exec (.sub x y) s = .next t ∧
      (t.getV x).toNat = ((s.getV x).toNat + 256 - (s.getV y).toNat) % 256 ∧
      (x ≠ vf → t.getV vf = if (s.getV y).toNat ≤ (s.getV x).toNat then 1#8 else 0#8) ∧
      t.pc = s.pc + 2#16 ∧ Unfaulted s t ∧ Keeps (Changes.regAndVf x) s t) ∧
    (∃ t, exec (.subn x y) s = .next t ∧
      (t.getV x).toNat = ((s.getV y).toNat + 256 - (s.getV x).toNat) % 256 ∧
      (x ≠ vf → t.getV vf = if (s.getV x).toNat ≤ (s.getV y).toNat then 1#8 else 0#8) ∧
      t.pc = s.pc + 2#16 ∧ Unfaulted s t ∧ Keeps (Changes.regAndVf x) s t)

/-- SHR and SHL shift Vx by one whatever y is, and VF takes the bit shifted out; where x is F the result stands in VF
(42_alu.md section 3; the spec's decisions D1 and D2). -/
def Obligations.ShiftsSetBitShiftedOut : Prop :=
  ∀ (x y : Nibble) (s : State),
    (∃ t, exec (.shr x y) s = .next t ∧ (t.getV x).toNat = (s.getV x).toNat / 2 ∧
      (x ≠ vf → (t.getV vf).toNat = (s.getV x).toNat % 2) ∧
      t.pc = s.pc + 2#16 ∧ Unfaulted s t ∧ Keeps (Changes.regAndVf x) s t) ∧
    (∃ t, exec (.shl x y) s = .next t ∧ (t.getV x).toNat = (s.getV x).toNat * 2 % 256 ∧
      (x ≠ vf → (t.getV vf).toNat = (s.getV x).toNat / 128) ∧
      t.pc = s.pc + 2#16 ∧ Unfaulted s t ∧ Keeps (Changes.regAndVf x) s t)

/-- RND takes exactly one draw and ANDs it with nn; the draw is the next byte the host has lined up, and a free value
where there is none: the statement holds whatever byte that is (42_alu.md section 5, 60_exceptions.md section 5; the
list of bytes is the model's choice, log entry 4). -/
def Obligations.RandomTakesOneDraw : Prop :=
  ∀ (x : Nibble) (nn : Byte) (s : State),
    ∃ t, exec (.rnd x nn) s = .next t ∧
      (∀ r rest, s.rng = r :: rest → t.getV x = r &&& nn ∧ t.rng = rest) ∧
      (∀ r, s.rng = [] → Config.randByte s.draws = r → t.getV x = r &&& nn ∧ t.rng = []) ∧
      t.draws = s.draws + 1 ∧ t.pc = s.pc + 2#16 ∧ Unfaulted s t ∧
      Keeps { Changes.reg x with rng := true, draws := true } s t

/-! ## Index register and memory -/

/-- R210: LD I, nnn loads the 12-bit address field, zero-extended, and writes nothing else. -/
def Obligations.LoadIndex : Prop :=
  ∀ (nnn : Addr) (s : State), decode (wordNNN 0xA#4 nnn) = .ldI nnn ∧
    ∃ t, exec (.ldI nnn) s = .next t ∧ t.i.toNat = nnn.toNat ∧ t.pc = s.pc + 2#16 ∧ Unfaulted s t ∧
      Keeps Changes.index s t

/-- ADD I, Vx is a 16-bit add with no flag effect, past 0xFFF without a fault (43_index_memory.md section 2; the width is
the spec's decision D23). -/
def Obligations.AddToIndex : Prop :=
  ∀ (x : Nibble) (s : State), decode (wordXNN 0xF#4 x 0x1E#8) = .addI x ∧
    ∃ t, exec (.addI x) s = .next t ∧ t.i.toNat = (s.i.toNat + (s.getV x).toNat) % 65536 ∧ t.pc = s.pc + 2#16 ∧
      Unfaulted s t ∧ Keeps Changes.index s t

/-- LD F, Vx: Vx times 5, and for Vx above 15 under FX29_HIGH = draw a free 16-bit draw, whatever it is
(43_index_memory.md section 2; the spec's decision D10). -/
def Obligations.FontAddressIsTimesFive : Prop :=
  ∀ (x : Nibble) (s : State),
    ((s.getV x).toNat ≤ 15 ∨ s.fx29High = .formula →
      ∃ t, exec (.ldF x) s = .next t ∧ t.i.toNat = (s.getV x).toNat * 5 ∧ t.pc = s.pc + 2#16 ∧ Unfaulted s t ∧
        Keeps Changes.index s t) ∧
    (∀ w, 15 < (s.getV x).toNat ∧ s.fx29High = .draw → Config.fontAddress s.draws = w →
      ∃ t, exec (.ldF x) s = .next t ∧ t.i = w ∧ t.draws = s.draws + 1 ∧ t.pc = s.pc + 2#16 ∧ Unfaulted s t ∧
        Keeps { Changes.index with draws := true } s t)

/-- LD B, Vx: the decimal digits of Vx at I, I + 1 and I + 2, and no other byte (43_index_memory.md section 3; the
encoding is the spec's from general knowledge, the bound its decision D5). -/
def Obligations.BcdStoresThreeDigits : Prop :=
  ∀ (x : Nibble) (s : State), s.i.toNat + 2 < 4096 →
    ∃ t, exec (.ldB x) s = .next t ∧
      (s.getV x).toNat =
        (t.mem.read s.i.toNat).toNat * 100 + (t.mem.read (s.i.toNat + 1)).toNat * 10 +
          (t.mem.read (s.i.toNat + 2)).toNat ∧
      (t.mem.read s.i.toNat).toNat ≤ 2 ∧ (t.mem.read (s.i.toNat + 1)).toNat ≤ 9 ∧
      (t.mem.read (s.i.toNat + 2)).toNat ≤ 9 ∧ t.pc = s.pc + 2#16 ∧ Unfaulted s t ∧
      Keeps (Changes.bytes s.i.toNat 3) s t

/-- LD [I], Vx: V0 to Vx at I to I + x, no other byte, I unchanged (43_index_memory.md section 3; the spec's decisions
D4 and D5). -/
def Obligations.DumpStoresRegisters : Prop :=
  ∀ (x : Nibble) (s : State), s.i.toNat + x.toNat < 4096 →
    ∃ t, exec (.ldMemVx x) s = .next t ∧
      (∀ z : Nibble, z.toNat ≤ x.toNat → t.mem.read (s.i.toNat + z.toNat) = s.getV z) ∧ t.pc = s.pc + 2#16 ∧
      Unfaulted s t ∧ Keeps (Changes.bytes s.i.toNat (x.toNat + 1)) s t

/-- LD Vx, [I]: V0 to Vx from I to I + x, no other register, I unchanged (43_index_memory.md section 3; the spec's
decisions D4 and D5). -/
def Obligations.LoadReadsRegisters : Prop :=
  ∀ (x : Nibble) (s : State), s.i.toNat + x.toNat < 4096 →
    ∃ t, exec (.ldVxMem x) s = .next t ∧
      (∀ z : Nibble, z.toNat ≤ x.toNat → t.getV z = s.mem.read (s.i.toNat + z.toNat)) ∧ t.pc = s.pc + 2#16 ∧
      Unfaulted s t ∧ Keeps (Changes.regsUpTo x) s t

/-- What a register dump stored, a register load with the same I brings back, in whatever state it runs
(43_index_memory.md section 3). -/
def Obligations.DumpThenLoadBringsBack : Prop :=
  ∀ (x : Nibble) (s t u : State), exec (.ldMemVx x) s = .next t → t.runState ≠ .halted → u.mem = t.mem → u.i = s.i →
    ∃ w, exec (.ldVxMem x) u = .next w ∧ Unfaulted u w ∧ ∀ z : Nibble, z.toNat ≤ x.toNat → w.getV z = s.getV z

/-- The four instructions that access memory take AddressOutOfRange where one of their addresses is 4096 or more; nothing
is stored, loaded or drawn, and the detail is the first such address (the spec's own decision D5; DRW checks only the rows
on the screen, decision D17). -/
def Obligations.AccessOutsideMemoryFaults : Prop :=
  ∀ (x y n : Nibble) (s : State),
    (4096 ≤ s.i.toNat + 2 →
      ∃ t, exec (.ldB x) s = .next t ∧
        FaultTaken .addressOutOfRange (some (wordXNN 0xF#4 x 0x33#8)) (max s.i.toNat 4096) s t) ∧
    (4096 ≤ s.i.toNat + x.toNat →
      (∃ t, exec (.ldMemVx x) s = .next t ∧
        FaultTaken .addressOutOfRange (some (wordXNN 0xF#4 x 0x55#8)) (max s.i.toNat 4096) s t) ∧
      (∃ t, exec (.ldVxMem x) s = .next t ∧
        FaultTaken .addressOutOfRange (some (wordXNN 0xF#4 x 0x65#8)) (max s.i.toNat 4096) s t)) ∧
    (¬ s.spriteReadable y n →
      ∃ t, exec (.drw x y n) s = .next t ∧
        FaultTaken .addressOutOfRange (some (wordXYN 0xD#4 x y n)) (max s.i.toNat 4096) s t)

/-! ## Display -/

/-- CLS: every pixel false, VF and everything else as before (44_display.md; the encoding is the spec's from general
knowledge). -/
def Obligations.ClearScreenClearsAll : Prop :=
  decode 0x00E0#16 = .cls ∧
  ∀ s : State, ∃ t, exec .cls s = .next t ∧ (∀ x y, Display.pixel t.disp x y = false) ∧ t.pc = s.pc + 2#16 ∧
    Unfaulted s t ∧ Keeps { Changes.pcOnly with disp := true } s t

/-- The row-by-row, bit-by-bit blit of DRW is the pixelwise XOR with the sprite placed at (Vx mod 64, Vy mod 32) and
clipped at the right and lower edge, and VF is 1 iff a pixel that was on got inverted (44_display.md R231 to R236; the
spec's decisions D5, D17, D18). -/
def Obligations.DrawIsPixelwiseXor : Prop :=
  ∀ (x y n : Nibble) (s : State), s.spriteReadable y n →
    ∃ t, exec (.drw x y n) s = .next t ∧
      (∀ cx cy, Display.pixel t.disp cx cy = (Display.pixel s.disp cx cy ^^ s.spriteBitAt x y n cx cy)) ∧
      ((∃ cx cy, s.spriteBitAt x y n cx cy = true ∧ Display.pixel s.disp cx cy = true) → t.getV vf = 1#8) ∧
      ((∀ cx cy, s.spriteBitAt x y n cx cy = true → Display.pixel s.disp cx cy = false) → t.getV vf = 0#8) ∧
      t.pc = s.pc + 2#16 ∧ Unfaulted s t ∧ Keeps { Changes.reg vf with disp := true } s t

/-- Drawing the same sprite twice leaves the display as it was, and the second draw's VF is 1 iff the first turned a pixel
on (the spec's own inference 44_display.md R237, for coordinate registers other than VF). -/
def Obligations.DrawTwiceRestores : Prop :=
  ∀ (x y n : Nibble) (s : State), x ≠ vf → y ≠ vf → s.spriteReadable y n →
    ∃ t u, exec (.drw x y n) s = .next t ∧ exec (.drw x y n) t = .next u ∧ u.disp = s.disp ∧
      ((∃ cx cy, Display.pixel s.disp cx cy = false ∧ Display.pixel t.disp cx cy = true) → u.getV vf = 1#8) ∧
      ((∀ cx cy, Display.pixel s.disp cx cy = false → Display.pixel t.disp cx cy = false) → u.getV vf = 0#8)

/-! ## Keypad and timers -/

/-- SKP and SKNP: 2 more if the key Vx is down, is up; a Vx above 15 takes KeyIndexOutOfRange (45_keypad_timer.md
section 1; the encodings are the spec's from general knowledge, the fault its decision D9). -/
def Obligations.KeySkipsOrFault : Prop :=
  ∀ (x : Nibble) (s : State),
    (∀ k, (h : k < 16) → (s.getV x).toNat = k →
      (∃ t, exec (.skp x) s = .next t ∧ t.pc = (if s.keys[k] = true then s.pc + 4#16 else s.pc + 2#16) ∧
        Unfaulted s t ∧ Keeps Changes.pcOnly s t) ∧
      (∃ t, exec (.sknp x) s = .next t ∧ t.pc = (if s.keys[k] = true then s.pc + 2#16 else s.pc + 4#16) ∧
        Unfaulted s t ∧ Keeps Changes.pcOnly s t)) ∧
    (16 ≤ (s.getV x).toNat →
      (∃ t, exec (.skp x) s = .next t ∧
        FaultTaken .keyIndexOutOfRange (some (wordXNN 0xE#4 x 0x9E#8)) (s.getV x).toNat s t) ∧
      (∃ t, exec (.sknp x) s = .next t ∧
        FaultTaken .keyIndexOutOfRange (some (wordXNN 0xE#4 x 0xA1#8)) (s.getV x).toNat s t))

/-- LD Vx, K: the lowest pressed key; with none pressed only PC stays at PC0 (45_keypad_timer.md section 1; the encoding
is the spec's from general knowledge, no wait for a release its decision D34). -/
def Obligations.AwaitKeyTakesLowestOrWaits : Prop :=
  ∀ (x : Nibble) (s : State),
    (∀ k, (h : k < 16) → s.keys[k] = true → (∀ j, (g : j < k) → s.keys[j] = false) →
      ∃ t, exec (.ldVxK x) s = .next t ∧ (t.getV x).toNat = k ∧ t.pc = s.pc + 2#16 ∧ Unfaulted s t ∧
        Keeps (Changes.reg x) s t) ∧
    ((∀ k, (h : k < 16) → s.keys[k] = false) →
      ∃ t, exec (.ldVxK x) s = .next t ∧ t.pc = s.pc ∧ Unfaulted s t ∧ Keeps Changes.pcOnly s t)

/-- LD Vx, DT; LD DT, Vx; LD ST, Vx: plain copies (45_keypad_timer.md section 2; the encodings are the spec's from
general knowledge). -/
def Obligations.TimerTransfersCopy : Prop :=
  ∀ (x : Nibble) (s : State),
    (∃ t, exec (.ldVxDt x) s = .next t ∧ t.getV x = s.dt ∧ t.pc = s.pc + 2#16 ∧ Unfaulted s t ∧
      Keeps (Changes.reg x) s t) ∧
    (∃ t, exec (.ldDtVx x) s = .next t ∧ t.dt = s.getV x ∧ t.pc = s.pc + 2#16 ∧ Unfaulted s t ∧
      Keeps { Changes.pcOnly with dt := true } s t) ∧
    (∃ t, exec (.ldStVx x) s = .next t ∧ t.st = s.getV x ∧ t.pc = s.pc + 2#16 ∧ Unfaulted s t ∧
      Keeps { Changes.pcOnly with st := true } s t)

/-! ## Whole-machine rules -/

/-- Every step of every state answers a next state: no instruction, no fault and no unknown word stops the model
(60_exceptions.md section 1: faults are latched; 30_encoding.md section 3). -/
def Obligations.StepAlwaysAnswers : Prop :=
  ∀ s : State, ∃ t, step s = .next t

/-- An instruction faults exactly where the table of R270 says so, with its code and its detail (the first address outside
the memory, found by looking at every address), and the fault is precise: nothing of the instruction is committed
(60_exceptions.md section 1, 40_cycle.md R137; codes and the last two faults are the spec's decisions D5, D7, D8, D9). -/
def Obligations.FaultsAreThoseOfTheTable : Prop :=
  ∀ (i : Instr) (s t : State), exec i s = .next t →
    (Instr.faultOf s i = none → Unfaulted s t) ∧
    (∀ code detail, Instr.faultOf s i = some (code, detail) → FaultTaken code (some (encode i)) detail s t)

/-- The access matrix: an instruction changes nothing its row does not list as written, whether it faults or not (the
spec's own inference 10_state.md R43). -/
def Obligations.WritesStayInAccessMatrix : Prop :=
  ∀ (i : Instr) (s t : State), exec i s = .next t → Keeps (Instr.writes s i) s t

/-- No instruction reads ST: with another value in ST it does the same and leaves that value, unless it is the one that
writes ST (10_state.md section 3 on R37). -/
def Obligations.SoundTimerIsReadByNone : Prop :=
  ∀ (i : Instr) (s t : State) (b : Byte), exec i s = .next t →
    exec i (s.setSt b) = .next (if i.opClass = .ldStVx then t else t.setSt b)

/-- No instruction reads the frame: the position in the batch, the batch size, the host's inputs and what was presented
make no difference to it and are carried along (10_state.md section 7, 60_exceptions.md R305; these fields are the
model's, log entries 2, 3, 8, 10). -/
def Obligations.InstructionsIgnoreTheFrame : Prop :=
  ∀ (i : Instr) (s t : State) (k left frames : Nat) (inputs : List FrameInput) (p : Option Outputs), exec i s = .next t →
    exec i { s with k := k, left := left, frames := frames, inputs := inputs, presented := p } =
      .next { t with k := k, left := left, frames := frames, inputs := inputs, presented := p }

/-- A fault once latched stays, and a Halted core stays as it is for any number of steps, its outputs presented
(60_exceptions.md sections 1, 4; the spec's decisions D7 and D37). -/
def Obligations.HaltedIsFinal : Prop :=
  (∀ (s t : State) (r : FaultRecord), step s = .next t → s.fault = some r → t.fault = some r) ∧
  (∀ (s : State) (n : Nat), s.runState = .halted → Host.Core.run core (n + 1) s = .next s.present)

/-! ## Frames, timers, host -/

/-- The frame of R290 is what the steps do: from a frame start, as many steps as the batch has cycles (one where it has
none) leave exactly what `frame` leaves, fault in the batch included (60_exceptions.md section 4; one step per cycle is
the model's choice, log entry 1). -/
def Obligations.StepsMakeTheFrame : Prop :=
  (∀ (s b : State) (f : FrameInput) (rest : List FrameInput), s.runState ≠ .halted →
    (s.runState = .running → s.left = 0) → s.inputs = f :: rest → b = { s with inputs := rest, frames := s.frames + 1 } →
    Host.Core.run core (if (b.startFrame f).runState = .running then max s.k 1 else 1) s = frame f b) ∧
  (∀ (s : State) (f : FrameInput), s.runState = .halted → step s = frame f s)

/-- A cycle that faults ends the batch and its frame's timer decrement is skipped (60_exceptions.md R292; the spec's
decision D28). -/
def Obligations.FaultEndsTheBatchWithoutTick : Prop :=
  ∀ s u : State, s.runState = .running → s.left ≠ 0 → cycle s = .next u → u.runState = .halted →
    ∃ t, step s = .next t ∧ t.dt = s.dt ∧ t.st = s.st ∧ t.left = 0 ∧ t.runState = .halted ∧ t.pc = s.pc ∧
      t.presented = some t.outputs

/-- R333: a cycle changes DT only by LD DT, Vx and ST only by LD ST, Vx, whatever cycle of the batch it is; the decrement
comes after the last cycle of the batch and after no other, so that it takes in a value written in the batch. -/
def Obligations.TimersChangeInBatchByWritesOnly : Prop :=
  ∀ (s u : State) (w : Word), s.runState = .running → s.left ≠ 0 → s.fetch = .ok w → cycle s = .next u →
    ((decode w).opClass ≠ .ldDtVx → u.dt = s.dt) ∧ ((decode w).opClass ≠ .ldStVx → u.st = s.st) ∧
    ∃ t, step s = .next t ∧
      (2 ≤ s.left → t.dt = u.dt ∧ t.st = u.st) ∧
      (s.left = 1 → u.runState = .running → t.dt.toNat = u.dt.toNat - 1 ∧ t.st.toNat = u.st.toNat - 1)

/-- R332: Keys is replaced only at a frame start, by what the host sends for that frame, so that every cycle of a batch sees
the same 16 values. -/
def Obligations.KeysAreLatchedAtFrameStart : Prop :=
  (∀ s t : State, s.runState = .running → s.left ≠ 0 → step s = .next t → t.keys = s.keys) ∧
  (∀ s t : State, s.runState ≠ .halted → (s.runState = .running → s.left = 0) → s.nextInput.quit = false →
    step s = .next t → t.keys = s.nextInput.keys) ∧
  (∀ s t : State, s.runState = .halted → step s = .next t → t.keys = s.keys)

/-- A frame that is Paused after its events latches the keys, runs no cycle, ticks no timer and presents its outputs: all
other state is as before (60_exceptions.md R294; the spec's decision D20). -/
def Obligations.PausedFrameOnlyLatchesKeys : Prop :=
  ∀ (s : State) (f : FrameInput) (rest : List FrameInput), s.inputs = f :: rest → f.quit = false →
    (s.runState = .paused ∧ f.pauseToggle = false ∨ s.runState = .running ∧ s.left = 0 ∧ f.pauseToggle = true) →
    ∃ t, step s = .next t ∧ t.keys = f.keys ∧ t.runState = .paused ∧ t.fault = s.fault ∧ t.pc = s.pc ∧ t.v = s.v ∧
      t.i = s.i ∧ t.stack = s.stack ∧ t.sp = s.sp ∧ t.mem = s.mem ∧ t.disp = s.disp ∧ t.dt = s.dt ∧ t.st = s.st ∧
      t.rng = s.rng ∧ t.draws = s.draws ∧ t.inputs = rest ∧ t.presented = some t.outputs

/-- A quit at a frame start wins over a pause toggle and the key latch: the core halts without executing
(60_exceptions.md R278, R293; the spec's decision D20). -/
def Obligations.QuitHaltsBeforeAnythingElse : Prop :=
  ∀ (s : State) (f : FrameInput) (rest : List FrameInput), s.inputs = f :: rest → f.quit = true →
    s.runState ≠ .halted → (s.runState = .running → s.left = 0) →
    ∃ t, step s = .next t ∧ t.runState = .halted ∧ t.fault = s.fault ∧ t.keys = s.keys ∧ t.pc = s.pc ∧ t.v = s.v ∧
      t.i = s.i ∧ t.stack = s.stack ∧ t.sp = s.sp ∧ t.mem = s.mem ∧ t.disp = s.disp ∧ t.dt = s.dt ∧ t.st = s.st ∧
      t.rng = s.rng ∧ t.draws = s.draws ∧ t.presented = some t.outputs

/-- With K = 0 a Running frame runs no cycle and still ticks the timers (60_exceptions.md R291; the spec's decision
D26). -/
def Obligations.EmptyBatchStillTicks : Prop :=
  ∀ s : State, s.k = 0 → s.left = 0 → s.runState ≠ .halted → s.nextInput.quit = false →
    (s.nextInput.pauseToggle = true ↔ s.runState = .paused) →
    ∃ t, step s = .next t ∧ t.runState = .running ∧ t.dt.toNat = s.dt.toNat - 1 ∧ t.st.toNat = s.st.toNat - 1 ∧
      t.pc = s.pc ∧ t.v = s.v ∧ t.i = s.i ∧ t.stack = s.stack ∧ t.sp = s.sp ∧ t.mem = s.mem ∧ t.disp = s.disp

/-- R140: no cycle runs while the core is Paused or Halted, and cycles run only inside a batch; a slot that runs none
leaves every register, the stack, the display and memory as they are. -/
def Obligations.CyclesOnlyInARunningBatch : Prop :=
  ∀ s u : State,
    (s.nextSlot = .cycle u → u.runState = .running ∧ u.left ≠ 0) ∧
    (s.nextSlot = .frameOver u →
      ∃ t, step s = .next t ∧ t.pc = s.pc ∧ t.v = s.v ∧ t.i = s.i ∧ t.stack = s.stack ∧ t.sp = s.sp ∧ t.mem = s.mem ∧
        t.disp = s.disp ∧ t.rng = s.rng ∧ t.draws = s.draws)

/-- The host sees the display, the sound signal, the run state and the fault as they are at a frame end, and nothing of a
batch in between (60_exceptions.md R309 to R311; the latch of what was presented is the model's, log entry 10). -/
def Obligations.OutputsArePresentedAtFrameEnds : Prop :=
  ∀ s t : State, step s = .next t →
    (s.runState = .running → 2 ≤ s.left → t.runState = .running → t.presented = s.presented) ∧
    (t.left = 0 → t.presented = some { framebuffer := t.disp, soundActive := t.st != 0#8, runState := t.runState,
                                       fault := t.fault })

/-- The configuration fixed at load never changes (60_exceptions.md R308; the spec's decision D26). -/
def Obligations.ConfigurationIsFixed : Prop :=
  ∀ s t : State, step s = .next t → t.k = s.k ∧ t.fx29High = s.fx29High

/-! ## Load, reset, invariant -/

/-- A load of at most 3584 bytes puts FONT at 0x000, the image at 0x200 and 0 elsewhere, and gives every other element
its reset value (70_reset_and_hazards.md R320 to R326; the spec's decisions D7, D12 to D15, D22). -/
def Obligations.LoadBuildsTheResetState : Prop :=
  ∀ (bytes : List Byte) (c : Sys2Proof.Config), c.tickRate ≠ 0 → bytes.length ≤ 3584 →
    ∃ s, load (some bytes) c = .next s ∧
      (∀ j, (h : j < bytes.length) → s.mem.read (0x200 + j) = bytes[j]) ∧
      s.mem.read 0 = 0xF0#8 ∧ s.mem.read 1 = 0x90#8 ∧ s.mem.read 2 = 0x90#8 ∧ s.mem.read 3 = 0x90#8 ∧
      s.mem.read 4 = 0xF0#8 ∧
      (∀ j, (h : j < 75) → s.mem.read (5 + j) = c.glyphs[j]) ∧
      (∀ a, 0x50 ≤ a → a < 0x200 → s.mem.read a = 0#8) ∧
      (∀ a, 0x200 + bytes.length ≤ a → s.mem.read a = 0#8) ∧
      (∀ z, s.getV z = 0#8) ∧ s.i = 0#16 ∧ s.pc = 0x200#16 ∧ s.sp.val = 0 ∧
      (∀ k, (h : k < 12) → s.stack[k] = 0#16) ∧ (∀ x y, Display.pixel s.disp x y = false) ∧
      (∀ k, (h : k < 16) → s.keys[k] = false) ∧ s.dt = 0#8 ∧ s.st = 0#8 ∧ s.runState = .running ∧ s.fault = none ∧
      s.k = c.ips / c.tickRate ∧ s.fx29High = c.fx29High

/-- An unreadable image and one longer than 3584 bytes give RomLoadError and no state; TICK_RATE = 0 is refused
(70_reset_and_hazards.md R320, R321; the spec's decisions D26 and D36). -/
def Obligations.LoadErrorsMakeNoState : Prop :=
  ∀ (c : Sys2Proof.Config) (bytes : List Byte),
    (c.tickRate ≠ 0 → load none c = .fault .romLoadError) ∧
    (c.tickRate ≠ 0 → 3584 < bytes.length → load (some bytes) c = .fault .romLoadError) ∧
    (c.tickRate = 0 → load (some bytes) c = .refused .tickRateZero ∧ load none c = .refused .tickRateZero)

/-- The model's reset state is the load of an empty image with the default configuration (70_reset_and_hazards.md R323;
the default is the model's choice, log entry 8). -/
def Obligations.ResetIsTheDefaultLoad : Prop :=
  load (some []) Config.default = .next State.reset

/-- The invariant holds after every load (70_reset_and_hazards.md R323). -/
def Obligations.LoadedStateMeetsInvariant : Prop :=
  State.reset.Inv ∧
  ∀ (bytes : List Byte) (c : Sys2Proof.Config) (s : State), load (some bytes) c = .next s → s.Inv

/-- Every step keeps the invariant: canonical memory, a position inside the batch, no open batch unless Running, a latched
fault halts with PC at the faulting instruction, a Halted core's outputs presented, PC at most 0x1002 and stack entries at
most 0x1000 (40_cycle.md R134, R137; 41_control_flow.md R150; 60_exceptions.md section 4). -/
def Obligations.StepKeepsInvariant : Prop :=
  ∀ s t : State, s.Inv → step s = .next t → t.Inv
end

