-- ==== Sys2Proof/Laws/Decode.lean ====
section
/-! SUPPORT. The fields of the three word patterns, and the words their fields make up again: each pattern as a number
in base 16, each field as a digit of it. -/

namespace Sys2Proof

/-! ## Patterns as numbers -/

theorem append_toNat {m n : Nat} (a : BitVec m) (b : BitVec n) : (a ++ b).toNat = a.toNat * 2 ^ n + b.toNat := by
  rw [BitVec.toNat_append, Nat.shiftLeft_eq, mul_comm, Nat.two_pow_add_eq_or_of_lt b.isLt]

theorem wordNNN_toNat (op : Nibble) (nnn : Addr) : (wordNNN op nnn).toNat = op.toNat * 4096 + nnn.toNat :=
  append_toNat op nnn

theorem wordXNN_toNat (op x : Nibble) (nn : Byte) :
    (wordXNN op x nn).toNat = (op.toNat * 16 + x.toNat) * 256 + nn.toNat := by
  have h := append_toNat (op ++ x) nn
  rwa [append_toNat op x] at h

theorem wordXYN_toNat (op x y n : Nibble) :
    (wordXYN op x y n).toNat = ((op.toNat * 16 + x.toNat) * 16 + y.toNat) * 16 + n.toNat := by
  have h := append_toNat (op ++ x ++ y) n
  rwa [append_toNat (op ++ x) y, append_toNat op x] at h

theorem wordOfBytes_toNat (hi lo : Byte) : (wordOfBytes hi lo).toNat = hi.toNat * 256 + lo.toNat :=
  append_toNat hi lo

/-! ## Fields as digits -/

theorem fieldOp_toNat (w : Word) : (fieldOp w).toNat = w.toNat / 4096 := by
  have := w.isLt
  simp only [fieldOp, BitVec.extractLsb'_toNat, Nat.shiftRight_eq_div_pow]
  omega

theorem fieldX_toNat (w : Word) : (fieldX w).toNat = w.toNat / 256 % 16 := by
  simp only [fieldX, BitVec.extractLsb'_toNat, Nat.shiftRight_eq_div_pow]

theorem fieldY_toNat (w : Word) : (fieldY w).toNat = w.toNat / 16 % 16 := by
  simp only [fieldY, BitVec.extractLsb'_toNat, Nat.shiftRight_eq_div_pow]

theorem fieldN_toNat (w : Word) : (fieldN w).toNat = w.toNat % 16 := by
  simp only [fieldN, BitVec.extractLsb'_toNat, Nat.shiftRight_eq_div_pow]
  omega

theorem fieldNN_toNat (w : Word) : (fieldNN w).toNat = w.toNat % 256 := by
  simp only [fieldNN, BitVec.extractLsb'_toNat, Nat.shiftRight_eq_div_pow]
  omega

theorem fieldNNN_toNat (w : Word) : (fieldNNN w).toNat = w.toNat % 4096 := by
  simp only [fieldNNN, BitVec.extractLsb'_toNat, Nat.shiftRight_eq_div_pow]
  omega

theorem highByte_toNat (w : Word) : (highByte w).toNat = w.toNat / 256 := by
  have := w.isLt
  simp only [highByte, BitVec.extractLsb'_toNat, Nat.shiftRight_eq_div_pow]
  omega

theorem lowByte_toNat (w : Word) : (lowByte w).toNat = w.toNat % 256 := by
  simp only [lowByte, BitVec.extractLsb'_toNat, Nat.shiftRight_eq_div_pow]
  omega

/-! ## The fields of a pattern -/

@[simp] theorem fieldOp_wordNNN (op : Nibble) (nnn : Addr) : fieldOp (wordNNN op nnn) = op := by
  apply BitVec.eq_of_toNat_eq
  rw [fieldOp_toNat, wordNNN_toNat]
  omega

@[simp] theorem fieldNNN_wordNNN (op : Nibble) (nnn : Addr) : fieldNNN (wordNNN op nnn) = nnn := by
  apply BitVec.eq_of_toNat_eq
  rw [fieldNNN_toNat, wordNNN_toNat]
  omega

@[simp] theorem fieldOp_wordXNN (op x : Nibble) (nn : Byte) : fieldOp (wordXNN op x nn) = op := by
  apply BitVec.eq_of_toNat_eq
  rw [fieldOp_toNat, wordXNN_toNat]
  omega

@[simp] theorem fieldX_wordXNN (op x : Nibble) (nn : Byte) : fieldX (wordXNN op x nn) = x := by
  apply BitVec.eq_of_toNat_eq
  rw [fieldX_toNat, wordXNN_toNat]
  omega

@[simp] theorem fieldNN_wordXNN (op x : Nibble) (nn : Byte) : fieldNN (wordXNN op x nn) = nn := by
  apply BitVec.eq_of_toNat_eq
  rw [fieldNN_toNat, wordXNN_toNat]
  omega

@[simp] theorem fieldOp_wordXYN (op x y n : Nibble) : fieldOp (wordXYN op x y n) = op := by
  apply BitVec.eq_of_toNat_eq
  rw [fieldOp_toNat, wordXYN_toNat]
  omega

@[simp] theorem fieldX_wordXYN (op x y n : Nibble) : fieldX (wordXYN op x y n) = x := by
  apply BitVec.eq_of_toNat_eq
  rw [fieldX_toNat, wordXYN_toNat]
  omega

@[simp] theorem fieldY_wordXYN (op x y n : Nibble) : fieldY (wordXYN op x y n) = y := by
  apply BitVec.eq_of_toNat_eq
  rw [fieldY_toNat, wordXYN_toNat]
  omega

@[simp] theorem fieldN_wordXYN (op x y n : Nibble) : fieldN (wordXYN op x y n) = n := by
  apply BitVec.eq_of_toNat_eq
  rw [fieldN_toNat, wordXYN_toNat]
  omega


/-! ## A word is made of its fields, and of its bytes -/

theorem wordNNN_fields (w : Word) : wordNNN (fieldOp w) (fieldNNN w) = w := by
  apply BitVec.eq_of_toNat_eq
  rw [wordNNN_toNat, fieldOp_toNat, fieldNNN_toNat]
  omega

theorem wordXNN_fields (w : Word) : wordXNN (fieldOp w) (fieldX w) (fieldNN w) = w := by
  apply BitVec.eq_of_toNat_eq
  rw [wordXNN_toNat, fieldOp_toNat, fieldX_toNat, fieldNN_toNat]
  omega

theorem wordXYN_fields (w : Word) : wordXYN (fieldOp w) (fieldX w) (fieldY w) (fieldN w) = w := by
  apply BitVec.eq_of_toNat_eq
  rw [wordXYN_toNat, fieldOp_toNat, fieldX_toNat, fieldY_toNat, fieldN_toNat]
  omega

@[simp] theorem wordOfBytes_bytes (w : Word) : wordOfBytes (highByte w) (lowByte w) = w := by
  apply BitVec.eq_of_toNat_eq
  rw [wordOfBytes_toNat, highByte_toNat, lowByte_toNat]
  omega

@[simp] theorem highByte_wordOfBytes (hi lo : Byte) : highByte (wordOfBytes hi lo) = hi := by
  apply BitVec.eq_of_toNat_eq
  rw [highByte_toNat, wordOfBytes_toNat]
  omega

@[simp] theorem lowByte_wordOfBytes (hi lo : Byte) : lowByte (wordOfBytes hi lo) = lo := by
  apply BitVec.eq_of_toNat_eq
  rw [lowByte_toNat, wordOfBytes_toNat]
  omega

/-! ## Masks (30_encoding.md R106) -/

theorem wordXYN_inj {a b c d a' b' c' d' : Nibble} :
    wordXYN a b c d = wordXYN a' b' c' d' ↔ a = a' ∧ b = b' ∧ c = c' ∧ d = d' := by
  constructor
  · intro h
    exact ⟨by simpa using congrArg fieldOp h, by simpa using congrArg fieldX h, by simpa using congrArg fieldY h,
      by simpa using congrArg fieldN h⟩
  · rintro ⟨rfl, rfl, rfl, rfl⟩
    rfl

theorem wordXYN_and (a b c d a' b' c' d' : Nibble) :
    wordXYN a b c d &&& wordXYN a' b' c' d' = wordXYN (a &&& a') (b &&& b') (c &&& c') (d &&& d') := by
  have h2 : (a ++ b) &&& (a' ++ b') = (a &&& a') ++ (b &&& b') := BitVec.and_append
  have h3 : (a ++ b ++ c) &&& (a' ++ b' ++ c') = (a &&& a') ++ (b &&& b') ++ (c &&& c') := by
    rw [BitVec.and_append, h2]
  have h4 : (a ++ b ++ c ++ d) &&& (a' ++ b' ++ c' ++ d') = (a &&& a') ++ (b &&& b') ++ (c &&& c') ++ (d &&& d') := by
    rw [BitVec.and_append, h3]
  exact h4

theorem and_allOnes_nibble (a : Nibble) : a &&& 0xF#4 = a := by
  revert a
  decide

/-- Mask F000 keeps op alone. -/
theorem mask_op (w : Word) (c : Nibble) : w &&& 0xF000#16 = wordXYN c 0#4 0#4 0#4 ↔ fieldOp w = c := by
  have hm : (0xF000#16 : Word) = wordXYN 0xF#4 0#4 0#4 0#4 := by decide
  rw [← wordXYN_fields w, hm, wordXYN_and, wordXYN_inj]
  simp [and_allOnes_nibble]

/-- Mask F00F keeps op and n. -/
theorem mask_op_n (w : Word) (c n : Nibble) :
    w &&& 0xF00F#16 = wordXYN c 0#4 0#4 n ↔ fieldOp w = c ∧ fieldN w = n := by
  have hm : (0xF00F#16 : Word) = wordXYN 0xF#4 0#4 0#4 0xF#4 := by decide
  rw [← wordXYN_fields w, hm, wordXYN_and, wordXYN_inj]
  simp [and_allOnes_nibble]

/-- Mask F0FF keeps op and nn. -/
theorem mask_op_nn (w : Word) (c : Nibble) (nn : Byte) :
    w &&& 0xF0FF#16 = wordXNN c 0#4 nn ↔ fieldOp w = c ∧ fieldNN w = nn := by
  have hw : w = wordXNN (fieldOp w) (fieldX w) (fieldNN w) := (wordXNN_fields w).symm
  have hm : (0xF0FF#16 : Word) = wordXNN 0xF#4 0#4 0xFF#8 := by decide
  have hand : ∀ (a b a' b' : Nibble) (d d' : Byte),
      wordXNN a b d &&& wordXNN a' b' d' = wordXNN (a &&& a') (b &&& b') (d &&& d') := by
    intro a b a' b' d d'
    have h2 : (a ++ b) &&& (a' ++ b') = (a &&& a') ++ (b &&& b') := BitVec.and_append
    have h3 : (a ++ b ++ d) &&& (a' ++ b' ++ d') = (a &&& a') ++ (b &&& b') ++ (d &&& d') := by
      rw [BitVec.and_append, h2]
    exact h3
  have hff : ∀ d : Byte, d &&& 0xFF#8 = d := fun d => BitVec.and_allOnes
  rw [hw, hm, hand, and_allOnes_nibble, hff]
  constructor
  · intro h
    exact ⟨by simpa using congrArg fieldOp h, by simpa using congrArg fieldNN h⟩
  · rintro ⟨h1, h2⟩
    simp only [fieldOp_wordXNN, fieldNN_wordXNN] at h1 h2
    rw [h1, h2]
    simp

end Sys2Proof
end

