-- ==== Sys2Proof/Laws/State.lean ====
section
/-! SUPPORT. One lemma per field per update of State, each true by rfl, so that no proof unfolds a record update. -/

namespace Sys2Proof.Machine

open Sys2Proof

@[simp] theorem State.setV_v (s : State) (x : Nibble) (b : Byte) : (s.setV x b).v = s.v.set x.toFin b := rfl
@[simp] theorem State.setV_i (s : State) (x : Nibble) (b : Byte) : (s.setV x b).i = s.i := rfl
@[simp] theorem State.setV_pc (s : State) (x : Nibble) (b : Byte) : (s.setV x b).pc = s.pc := rfl
@[simp] theorem State.setV_stack (s : State) (x : Nibble) (b : Byte) : (s.setV x b).stack = s.stack := rfl
@[simp] theorem State.setV_sp (s : State) (x : Nibble) (b : Byte) : (s.setV x b).sp = s.sp := rfl
@[simp] theorem State.setV_disp (s : State) (x : Nibble) (b : Byte) : (s.setV x b).disp = s.disp := rfl
@[simp] theorem State.setV_keys (s : State) (x : Nibble) (b : Byte) : (s.setV x b).keys = s.keys := rfl
@[simp] theorem State.setV_dt (s : State) (x : Nibble) (b : Byte) : (s.setV x b).dt = s.dt := rfl
@[simp] theorem State.setV_st (s : State) (x : Nibble) (b : Byte) : (s.setV x b).st = s.st := rfl
@[simp] theorem State.setV_runState (s : State) (x : Nibble) (b : Byte) : (s.setV x b).runState = s.runState := rfl
@[simp] theorem State.setV_fault (s : State) (x : Nibble) (b : Byte) : (s.setV x b).fault = s.fault := rfl
@[simp] theorem State.setV_mem (s : State) (x : Nibble) (b : Byte) : (s.setV x b).mem = s.mem := rfl
@[simp] theorem State.setV_k (s : State) (x : Nibble) (b : Byte) : (s.setV x b).k = s.k := rfl
@[simp] theorem State.setV_fx29High (s : State) (x : Nibble) (b : Byte) : (s.setV x b).fx29High = s.fx29High := rfl
@[simp] theorem State.setV_left (s : State) (x : Nibble) (b : Byte) : (s.setV x b).left = s.left := rfl
@[simp] theorem State.setV_inputs (s : State) (x : Nibble) (b : Byte) : (s.setV x b).inputs = s.inputs := rfl
@[simp] theorem State.setV_rng (s : State) (x : Nibble) (b : Byte) : (s.setV x b).rng = s.rng := rfl
@[simp] theorem State.setV_frames (s : State) (x : Nibble) (b : Byte) : (s.setV x b).frames = s.frames := rfl
@[simp] theorem State.setV_draws (s : State) (x : Nibble) (b : Byte) : (s.setV x b).draws = s.draws := rfl
@[simp] theorem State.setV_presented (s : State) (x : Nibble) (b : Byte) : (s.setV x b).presented = s.presented := rfl

@[simp] theorem State.setPc_v (s : State) (w : Word) : (s.setPc w).v = s.v := rfl
@[simp] theorem State.setPc_i (s : State) (w : Word) : (s.setPc w).i = s.i := rfl
@[simp] theorem State.setPc_pc (s : State) (w : Word) : (s.setPc w).pc = w := rfl
@[simp] theorem State.setPc_stack (s : State) (w : Word) : (s.setPc w).stack = s.stack := rfl
@[simp] theorem State.setPc_sp (s : State) (w : Word) : (s.setPc w).sp = s.sp := rfl
@[simp] theorem State.setPc_disp (s : State) (w : Word) : (s.setPc w).disp = s.disp := rfl
@[simp] theorem State.setPc_keys (s : State) (w : Word) : (s.setPc w).keys = s.keys := rfl
@[simp] theorem State.setPc_dt (s : State) (w : Word) : (s.setPc w).dt = s.dt := rfl
@[simp] theorem State.setPc_st (s : State) (w : Word) : (s.setPc w).st = s.st := rfl
@[simp] theorem State.setPc_runState (s : State) (w : Word) : (s.setPc w).runState = s.runState := rfl
@[simp] theorem State.setPc_fault (s : State) (w : Word) : (s.setPc w).fault = s.fault := rfl
@[simp] theorem State.setPc_mem (s : State) (w : Word) : (s.setPc w).mem = s.mem := rfl
@[simp] theorem State.setPc_k (s : State) (w : Word) : (s.setPc w).k = s.k := rfl
@[simp] theorem State.setPc_fx29High (s : State) (w : Word) : (s.setPc w).fx29High = s.fx29High := rfl
@[simp] theorem State.setPc_left (s : State) (w : Word) : (s.setPc w).left = s.left := rfl
@[simp] theorem State.setPc_inputs (s : State) (w : Word) : (s.setPc w).inputs = s.inputs := rfl
@[simp] theorem State.setPc_rng (s : State) (w : Word) : (s.setPc w).rng = s.rng := rfl
@[simp] theorem State.setPc_frames (s : State) (w : Word) : (s.setPc w).frames = s.frames := rfl
@[simp] theorem State.setPc_draws (s : State) (w : Word) : (s.setPc w).draws = s.draws := rfl
@[simp] theorem State.setPc_presented (s : State) (w : Word) : (s.setPc w).presented = s.presented := rfl

@[simp] theorem State.setI_v (s : State) (w : Word) : (s.setI w).v = s.v := rfl
@[simp] theorem State.setI_i (s : State) (w : Word) : (s.setI w).i = w := rfl
@[simp] theorem State.setI_pc (s : State) (w : Word) : (s.setI w).pc = s.pc := rfl
@[simp] theorem State.setI_stack (s : State) (w : Word) : (s.setI w).stack = s.stack := rfl
@[simp] theorem State.setI_sp (s : State) (w : Word) : (s.setI w).sp = s.sp := rfl
@[simp] theorem State.setI_disp (s : State) (w : Word) : (s.setI w).disp = s.disp := rfl
@[simp] theorem State.setI_keys (s : State) (w : Word) : (s.setI w).keys = s.keys := rfl
@[simp] theorem State.setI_dt (s : State) (w : Word) : (s.setI w).dt = s.dt := rfl
@[simp] theorem State.setI_st (s : State) (w : Word) : (s.setI w).st = s.st := rfl
@[simp] theorem State.setI_runState (s : State) (w : Word) : (s.setI w).runState = s.runState := rfl
@[simp] theorem State.setI_fault (s : State) (w : Word) : (s.setI w).fault = s.fault := rfl
@[simp] theorem State.setI_mem (s : State) (w : Word) : (s.setI w).mem = s.mem := rfl
@[simp] theorem State.setI_k (s : State) (w : Word) : (s.setI w).k = s.k := rfl
@[simp] theorem State.setI_fx29High (s : State) (w : Word) : (s.setI w).fx29High = s.fx29High := rfl
@[simp] theorem State.setI_left (s : State) (w : Word) : (s.setI w).left = s.left := rfl
@[simp] theorem State.setI_inputs (s : State) (w : Word) : (s.setI w).inputs = s.inputs := rfl
@[simp] theorem State.setI_rng (s : State) (w : Word) : (s.setI w).rng = s.rng := rfl
@[simp] theorem State.setI_frames (s : State) (w : Word) : (s.setI w).frames = s.frames := rfl
@[simp] theorem State.setI_draws (s : State) (w : Word) : (s.setI w).draws = s.draws := rfl
@[simp] theorem State.setI_presented (s : State) (w : Word) : (s.setI w).presented = s.presented := rfl

@[simp] theorem State.setDt_v (s : State) (b : Byte) : (s.setDt b).v = s.v := rfl
@[simp] theorem State.setDt_i (s : State) (b : Byte) : (s.setDt b).i = s.i := rfl
@[simp] theorem State.setDt_pc (s : State) (b : Byte) : (s.setDt b).pc = s.pc := rfl
@[simp] theorem State.setDt_stack (s : State) (b : Byte) : (s.setDt b).stack = s.stack := rfl
@[simp] theorem State.setDt_sp (s : State) (b : Byte) : (s.setDt b).sp = s.sp := rfl
@[simp] theorem State.setDt_disp (s : State) (b : Byte) : (s.setDt b).disp = s.disp := rfl
@[simp] theorem State.setDt_keys (s : State) (b : Byte) : (s.setDt b).keys = s.keys := rfl
@[simp] theorem State.setDt_dt (s : State) (b : Byte) : (s.setDt b).dt = b := rfl
@[simp] theorem State.setDt_st (s : State) (b : Byte) : (s.setDt b).st = s.st := rfl
@[simp] theorem State.setDt_runState (s : State) (b : Byte) : (s.setDt b).runState = s.runState := rfl
@[simp] theorem State.setDt_fault (s : State) (b : Byte) : (s.setDt b).fault = s.fault := rfl
@[simp] theorem State.setDt_mem (s : State) (b : Byte) : (s.setDt b).mem = s.mem := rfl
@[simp] theorem State.setDt_k (s : State) (b : Byte) : (s.setDt b).k = s.k := rfl
@[simp] theorem State.setDt_fx29High (s : State) (b : Byte) : (s.setDt b).fx29High = s.fx29High := rfl
@[simp] theorem State.setDt_left (s : State) (b : Byte) : (s.setDt b).left = s.left := rfl
@[simp] theorem State.setDt_inputs (s : State) (b : Byte) : (s.setDt b).inputs = s.inputs := rfl
@[simp] theorem State.setDt_rng (s : State) (b : Byte) : (s.setDt b).rng = s.rng := rfl
@[simp] theorem State.setDt_frames (s : State) (b : Byte) : (s.setDt b).frames = s.frames := rfl
@[simp] theorem State.setDt_draws (s : State) (b : Byte) : (s.setDt b).draws = s.draws := rfl
@[simp] theorem State.setDt_presented (s : State) (b : Byte) : (s.setDt b).presented = s.presented := rfl

@[simp] theorem State.setSt_v (s : State) (b : Byte) : (s.setSt b).v = s.v := rfl
@[simp] theorem State.setSt_i (s : State) (b : Byte) : (s.setSt b).i = s.i := rfl
@[simp] theorem State.setSt_pc (s : State) (b : Byte) : (s.setSt b).pc = s.pc := rfl
@[simp] theorem State.setSt_stack (s : State) (b : Byte) : (s.setSt b).stack = s.stack := rfl
@[simp] theorem State.setSt_sp (s : State) (b : Byte) : (s.setSt b).sp = s.sp := rfl
@[simp] theorem State.setSt_disp (s : State) (b : Byte) : (s.setSt b).disp = s.disp := rfl
@[simp] theorem State.setSt_keys (s : State) (b : Byte) : (s.setSt b).keys = s.keys := rfl
@[simp] theorem State.setSt_dt (s : State) (b : Byte) : (s.setSt b).dt = s.dt := rfl
@[simp] theorem State.setSt_st (s : State) (b : Byte) : (s.setSt b).st = b := rfl
@[simp] theorem State.setSt_runState (s : State) (b : Byte) : (s.setSt b).runState = s.runState := rfl
@[simp] theorem State.setSt_fault (s : State) (b : Byte) : (s.setSt b).fault = s.fault := rfl
@[simp] theorem State.setSt_mem (s : State) (b : Byte) : (s.setSt b).mem = s.mem := rfl
@[simp] theorem State.setSt_k (s : State) (b : Byte) : (s.setSt b).k = s.k := rfl
@[simp] theorem State.setSt_fx29High (s : State) (b : Byte) : (s.setSt b).fx29High = s.fx29High := rfl
@[simp] theorem State.setSt_left (s : State) (b : Byte) : (s.setSt b).left = s.left := rfl
@[simp] theorem State.setSt_inputs (s : State) (b : Byte) : (s.setSt b).inputs = s.inputs := rfl
@[simp] theorem State.setSt_rng (s : State) (b : Byte) : (s.setSt b).rng = s.rng := rfl
@[simp] theorem State.setSt_frames (s : State) (b : Byte) : (s.setSt b).frames = s.frames := rfl
@[simp] theorem State.setSt_draws (s : State) (b : Byte) : (s.setSt b).draws = s.draws := rfl
@[simp] theorem State.setSt_presented (s : State) (b : Byte) : (s.setSt b).presented = s.presented := rfl

@[simp] theorem State.setDisp_v (s : State) (d : Display) : (s.setDisp d).v = s.v := rfl
@[simp] theorem State.setDisp_i (s : State) (d : Display) : (s.setDisp d).i = s.i := rfl
@[simp] theorem State.setDisp_pc (s : State) (d : Display) : (s.setDisp d).pc = s.pc := rfl
@[simp] theorem State.setDisp_stack (s : State) (d : Display) : (s.setDisp d).stack = s.stack := rfl
@[simp] theorem State.setDisp_sp (s : State) (d : Display) : (s.setDisp d).sp = s.sp := rfl
@[simp] theorem State.setDisp_disp (s : State) (d : Display) : (s.setDisp d).disp = d := rfl
@[simp] theorem State.setDisp_keys (s : State) (d : Display) : (s.setDisp d).keys = s.keys := rfl
@[simp] theorem State.setDisp_dt (s : State) (d : Display) : (s.setDisp d).dt = s.dt := rfl
@[simp] theorem State.setDisp_st (s : State) (d : Display) : (s.setDisp d).st = s.st := rfl
@[simp] theorem State.setDisp_runState (s : State) (d : Display) : (s.setDisp d).runState = s.runState := rfl
@[simp] theorem State.setDisp_fault (s : State) (d : Display) : (s.setDisp d).fault = s.fault := rfl
@[simp] theorem State.setDisp_mem (s : State) (d : Display) : (s.setDisp d).mem = s.mem := rfl
@[simp] theorem State.setDisp_k (s : State) (d : Display) : (s.setDisp d).k = s.k := rfl
@[simp] theorem State.setDisp_fx29High (s : State) (d : Display) : (s.setDisp d).fx29High = s.fx29High := rfl
@[simp] theorem State.setDisp_left (s : State) (d : Display) : (s.setDisp d).left = s.left := rfl
@[simp] theorem State.setDisp_inputs (s : State) (d : Display) : (s.setDisp d).inputs = s.inputs := rfl
@[simp] theorem State.setDisp_rng (s : State) (d : Display) : (s.setDisp d).rng = s.rng := rfl
@[simp] theorem State.setDisp_frames (s : State) (d : Display) : (s.setDisp d).frames = s.frames := rfl
@[simp] theorem State.setDisp_draws (s : State) (d : Display) : (s.setDisp d).draws = s.draws := rfl
@[simp] theorem State.setDisp_presented (s : State) (d : Display) : (s.setDisp d).presented = s.presented := rfl

@[simp] theorem State.writeByte_v (s : State) (a : Nat) (b : Byte) : (s.writeByte a b).v = s.v := rfl
@[simp] theorem State.writeByte_i (s : State) (a : Nat) (b : Byte) : (s.writeByte a b).i = s.i := rfl
@[simp] theorem State.writeByte_pc (s : State) (a : Nat) (b : Byte) : (s.writeByte a b).pc = s.pc := rfl
@[simp] theorem State.writeByte_stack (s : State) (a : Nat) (b : Byte) : (s.writeByte a b).stack = s.stack := rfl
@[simp] theorem State.writeByte_sp (s : State) (a : Nat) (b : Byte) : (s.writeByte a b).sp = s.sp := rfl
@[simp] theorem State.writeByte_disp (s : State) (a : Nat) (b : Byte) : (s.writeByte a b).disp = s.disp := rfl
@[simp] theorem State.writeByte_keys (s : State) (a : Nat) (b : Byte) : (s.writeByte a b).keys = s.keys := rfl
@[simp] theorem State.writeByte_dt (s : State) (a : Nat) (b : Byte) : (s.writeByte a b).dt = s.dt := rfl
@[simp] theorem State.writeByte_st (s : State) (a : Nat) (b : Byte) : (s.writeByte a b).st = s.st := rfl
@[simp] theorem State.writeByte_runState (s : State) (a : Nat) (b : Byte) : (s.writeByte a b).runState = s.runState := rfl
@[simp] theorem State.writeByte_fault (s : State) (a : Nat) (b : Byte) : (s.writeByte a b).fault = s.fault := rfl
@[simp] theorem State.writeByte_mem (s : State) (a : Nat) (b : Byte) : (s.writeByte a b).mem = s.mem.write a b := rfl
@[simp] theorem State.writeByte_k (s : State) (a : Nat) (b : Byte) : (s.writeByte a b).k = s.k := rfl
@[simp] theorem State.writeByte_fx29High (s : State) (a : Nat) (b : Byte) : (s.writeByte a b).fx29High = s.fx29High := rfl
@[simp] theorem State.writeByte_left (s : State) (a : Nat) (b : Byte) : (s.writeByte a b).left = s.left := rfl
@[simp] theorem State.writeByte_inputs (s : State) (a : Nat) (b : Byte) : (s.writeByte a b).inputs = s.inputs := rfl
@[simp] theorem State.writeByte_rng (s : State) (a : Nat) (b : Byte) : (s.writeByte a b).rng = s.rng := rfl
@[simp] theorem State.writeByte_frames (s : State) (a : Nat) (b : Byte) : (s.writeByte a b).frames = s.frames := rfl
@[simp] theorem State.writeByte_draws (s : State) (a : Nat) (b : Byte) : (s.writeByte a b).draws = s.draws := rfl
@[simp] theorem State.writeByte_presented (s : State) (a : Nat) (b : Byte) : (s.writeByte a b).presented = s.presented := rfl

@[simp] theorem State.advancePc_v (s : State) : s.advancePc.v = s.v := rfl
@[simp] theorem State.advancePc_i (s : State) : s.advancePc.i = s.i := rfl
@[simp] theorem State.advancePc_pc (s : State) : s.advancePc.pc = s.pc + 2#16 := rfl
@[simp] theorem State.advancePc_stack (s : State) : s.advancePc.stack = s.stack := rfl
@[simp] theorem State.advancePc_sp (s : State) : s.advancePc.sp = s.sp := rfl
@[simp] theorem State.advancePc_disp (s : State) : s.advancePc.disp = s.disp := rfl
@[simp] theorem State.advancePc_keys (s : State) : s.advancePc.keys = s.keys := rfl
@[simp] theorem State.advancePc_dt (s : State) : s.advancePc.dt = s.dt := rfl
@[simp] theorem State.advancePc_st (s : State) : s.advancePc.st = s.st := rfl
@[simp] theorem State.advancePc_runState (s : State) : s.advancePc.runState = s.runState := rfl
@[simp] theorem State.advancePc_fault (s : State) : s.advancePc.fault = s.fault := rfl
@[simp] theorem State.advancePc_mem (s : State) : s.advancePc.mem = s.mem := rfl
@[simp] theorem State.advancePc_k (s : State) : s.advancePc.k = s.k := rfl
@[simp] theorem State.advancePc_fx29High (s : State) : s.advancePc.fx29High = s.fx29High := rfl
@[simp] theorem State.advancePc_left (s : State) : s.advancePc.left = s.left := rfl
@[simp] theorem State.advancePc_inputs (s : State) : s.advancePc.inputs = s.inputs := rfl
@[simp] theorem State.advancePc_rng (s : State) : s.advancePc.rng = s.rng := rfl
@[simp] theorem State.advancePc_frames (s : State) : s.advancePc.frames = s.frames := rfl
@[simp] theorem State.advancePc_draws (s : State) : s.advancePc.draws = s.draws := rfl
@[simp] theorem State.advancePc_presented (s : State) : s.advancePc.presented = s.presented := rfl

@[simp] theorem State.takeFault_v (s : State) (w : Option Word) (e : Raise) : (s.takeFault w e).v = s.v := rfl
@[simp] theorem State.takeFault_i (s : State) (w : Option Word) (e : Raise) : (s.takeFault w e).i = s.i := rfl
@[simp] theorem State.takeFault_pc (s : State) (w : Option Word) (e : Raise) : (s.takeFault w e).pc = s.pc := rfl
@[simp] theorem State.takeFault_stack (s : State) (w : Option Word) (e : Raise) : (s.takeFault w e).stack = s.stack := rfl
@[simp] theorem State.takeFault_sp (s : State) (w : Option Word) (e : Raise) : (s.takeFault w e).sp = s.sp := rfl
@[simp] theorem State.takeFault_disp (s : State) (w : Option Word) (e : Raise) : (s.takeFault w e).disp = s.disp := rfl
@[simp] theorem State.takeFault_keys (s : State) (w : Option Word) (e : Raise) : (s.takeFault w e).keys = s.keys := rfl
@[simp] theorem State.takeFault_dt (s : State) (w : Option Word) (e : Raise) : (s.takeFault w e).dt = s.dt := rfl
@[simp] theorem State.takeFault_st (s : State) (w : Option Word) (e : Raise) : (s.takeFault w e).st = s.st := rfl
@[simp] theorem State.takeFault_runState (s : State) (w : Option Word) (e : Raise) : (s.takeFault w e).runState = .halted := rfl
@[simp] theorem State.takeFault_fault (s : State) (w : Option Word) (e : Raise) : (s.takeFault w e).fault = if s.fault = none then some { code := e.code, pc := s.pc, word := w, detail := e.detail } else s.fault := rfl
@[simp] theorem State.takeFault_mem (s : State) (w : Option Word) (e : Raise) : (s.takeFault w e).mem = s.mem := rfl
@[simp] theorem State.takeFault_k (s : State) (w : Option Word) (e : Raise) : (s.takeFault w e).k = s.k := rfl
@[simp] theorem State.takeFault_fx29High (s : State) (w : Option Word) (e : Raise) : (s.takeFault w e).fx29High = s.fx29High := rfl
@[simp] theorem State.takeFault_left (s : State) (w : Option Word) (e : Raise) : (s.takeFault w e).left = s.left := rfl
@[simp] theorem State.takeFault_inputs (s : State) (w : Option Word) (e : Raise) : (s.takeFault w e).inputs = s.inputs := rfl
@[simp] theorem State.takeFault_rng (s : State) (w : Option Word) (e : Raise) : (s.takeFault w e).rng = s.rng := rfl
@[simp] theorem State.takeFault_frames (s : State) (w : Option Word) (e : Raise) : (s.takeFault w e).frames = s.frames := rfl
@[simp] theorem State.takeFault_draws (s : State) (w : Option Word) (e : Raise) : (s.takeFault w e).draws = s.draws := rfl
@[simp] theorem State.takeFault_presented (s : State) (w : Option Word) (e : Raise) : (s.takeFault w e).presented = s.presented := rfl

@[simp] theorem State.dropTop_v (s : State) : s.dropTop.v = s.v := rfl
@[simp] theorem State.dropTop_i (s : State) : s.dropTop.i = s.i := rfl
@[simp] theorem State.dropTop_pc (s : State) : s.dropTop.pc = s.pc := rfl
@[simp] theorem State.dropTop_stack (s : State) : s.dropTop.stack = s.stack := rfl
@[simp] theorem State.dropTop_disp (s : State) : s.dropTop.disp = s.disp := rfl
@[simp] theorem State.dropTop_keys (s : State) : s.dropTop.keys = s.keys := rfl
@[simp] theorem State.dropTop_dt (s : State) : s.dropTop.dt = s.dt := rfl
@[simp] theorem State.dropTop_st (s : State) : s.dropTop.st = s.st := rfl
@[simp] theorem State.dropTop_runState (s : State) : s.dropTop.runState = s.runState := rfl
@[simp] theorem State.dropTop_fault (s : State) : s.dropTop.fault = s.fault := rfl
@[simp] theorem State.dropTop_mem (s : State) : s.dropTop.mem = s.mem := rfl
@[simp] theorem State.dropTop_k (s : State) : s.dropTop.k = s.k := rfl
@[simp] theorem State.dropTop_fx29High (s : State) : s.dropTop.fx29High = s.fx29High := rfl
@[simp] theorem State.dropTop_left (s : State) : s.dropTop.left = s.left := rfl
@[simp] theorem State.dropTop_inputs (s : State) : s.dropTop.inputs = s.inputs := rfl
@[simp] theorem State.dropTop_rng (s : State) : s.dropTop.rng = s.rng := rfl
@[simp] theorem State.dropTop_frames (s : State) : s.dropTop.frames = s.frames := rfl
@[simp] theorem State.dropTop_draws (s : State) : s.dropTop.draws = s.draws := rfl
@[simp] theorem State.dropTop_presented (s : State) : s.dropTop.presented = s.presented := rfl

@[simp] theorem State.afterRandByte_v (s : State) : s.afterRandByte.v = s.v := rfl
@[simp] theorem State.afterRandByte_i (s : State) : s.afterRandByte.i = s.i := rfl
@[simp] theorem State.afterRandByte_pc (s : State) : s.afterRandByte.pc = s.pc := rfl
@[simp] theorem State.afterRandByte_stack (s : State) : s.afterRandByte.stack = s.stack := rfl
@[simp] theorem State.afterRandByte_sp (s : State) : s.afterRandByte.sp = s.sp := rfl
@[simp] theorem State.afterRandByte_disp (s : State) : s.afterRandByte.disp = s.disp := rfl
@[simp] theorem State.afterRandByte_keys (s : State) : s.afterRandByte.keys = s.keys := rfl
@[simp] theorem State.afterRandByte_dt (s : State) : s.afterRandByte.dt = s.dt := rfl
@[simp] theorem State.afterRandByte_st (s : State) : s.afterRandByte.st = s.st := rfl
@[simp] theorem State.afterRandByte_runState (s : State) : s.afterRandByte.runState = s.runState := rfl
@[simp] theorem State.afterRandByte_fault (s : State) : s.afterRandByte.fault = s.fault := rfl
@[simp] theorem State.afterRandByte_mem (s : State) : s.afterRandByte.mem = s.mem := rfl
@[simp] theorem State.afterRandByte_k (s : State) : s.afterRandByte.k = s.k := rfl
@[simp] theorem State.afterRandByte_fx29High (s : State) : s.afterRandByte.fx29High = s.fx29High := rfl
@[simp] theorem State.afterRandByte_left (s : State) : s.afterRandByte.left = s.left := rfl
@[simp] theorem State.afterRandByte_inputs (s : State) : s.afterRandByte.inputs = s.inputs := rfl
@[simp] theorem State.afterRandByte_rng (s : State) : s.afterRandByte.rng = s.rng.tail := rfl
@[simp] theorem State.afterRandByte_frames (s : State) : s.afterRandByte.frames = s.frames := rfl
@[simp] theorem State.afterRandByte_draws (s : State) : s.afterRandByte.draws = s.draws + 1 := rfl
@[simp] theorem State.afterRandByte_presented (s : State) : s.afterRandByte.presented = s.presented := rfl

@[simp] theorem State.afterFontAddress_v (s : State) : s.afterFontAddress.v = s.v := rfl
@[simp] theorem State.afterFontAddress_i (s : State) : s.afterFontAddress.i = s.i := rfl
@[simp] theorem State.afterFontAddress_pc (s : State) : s.afterFontAddress.pc = s.pc := rfl
@[simp] theorem State.afterFontAddress_stack (s : State) : s.afterFontAddress.stack = s.stack := rfl
@[simp] theorem State.afterFontAddress_sp (s : State) : s.afterFontAddress.sp = s.sp := rfl
@[simp] theorem State.afterFontAddress_disp (s : State) : s.afterFontAddress.disp = s.disp := rfl
@[simp] theorem State.afterFontAddress_keys (s : State) : s.afterFontAddress.keys = s.keys := rfl
@[simp] theorem State.afterFontAddress_dt (s : State) : s.afterFontAddress.dt = s.dt := rfl
@[simp] theorem State.afterFontAddress_st (s : State) : s.afterFontAddress.st = s.st := rfl
@[simp] theorem State.afterFontAddress_runState (s : State) : s.afterFontAddress.runState = s.runState := rfl
@[simp] theorem State.afterFontAddress_fault (s : State) : s.afterFontAddress.fault = s.fault := rfl
@[simp] theorem State.afterFontAddress_mem (s : State) : s.afterFontAddress.mem = s.mem := rfl
@[simp] theorem State.afterFontAddress_k (s : State) : s.afterFontAddress.k = s.k := rfl
@[simp] theorem State.afterFontAddress_fx29High (s : State) : s.afterFontAddress.fx29High = s.fx29High := rfl
@[simp] theorem State.afterFontAddress_left (s : State) : s.afterFontAddress.left = s.left := rfl
@[simp] theorem State.afterFontAddress_inputs (s : State) : s.afterFontAddress.inputs = s.inputs := rfl
@[simp] theorem State.afterFontAddress_rng (s : State) : s.afterFontAddress.rng = s.rng := rfl
@[simp] theorem State.afterFontAddress_frames (s : State) : s.afterFontAddress.frames = s.frames := rfl
@[simp] theorem State.afterFontAddress_draws (s : State) : s.afterFontAddress.draws = s.draws + 1 := rfl
@[simp] theorem State.afterFontAddress_presented (s : State) : s.afterFontAddress.presented = s.presented := rfl

@[simp] theorem State.present_v (s : State) : s.present.v = s.v := rfl
@[simp] theorem State.present_i (s : State) : s.present.i = s.i := rfl
@[simp] theorem State.present_pc (s : State) : s.present.pc = s.pc := rfl
@[simp] theorem State.present_stack (s : State) : s.present.stack = s.stack := rfl
@[simp] theorem State.present_sp (s : State) : s.present.sp = s.sp := rfl
@[simp] theorem State.present_disp (s : State) : s.present.disp = s.disp := rfl
@[simp] theorem State.present_keys (s : State) : s.present.keys = s.keys := rfl
@[simp] theorem State.present_dt (s : State) : s.present.dt = s.dt := rfl
@[simp] theorem State.present_st (s : State) : s.present.st = s.st := rfl
@[simp] theorem State.present_runState (s : State) : s.present.runState = s.runState := rfl
@[simp] theorem State.present_fault (s : State) : s.present.fault = s.fault := rfl
@[simp] theorem State.present_mem (s : State) : s.present.mem = s.mem := rfl
@[simp] theorem State.present_k (s : State) : s.present.k = s.k := rfl
@[simp] theorem State.present_fx29High (s : State) : s.present.fx29High = s.fx29High := rfl
@[simp] theorem State.present_left (s : State) : s.present.left = s.left := rfl
@[simp] theorem State.present_inputs (s : State) : s.present.inputs = s.inputs := rfl
@[simp] theorem State.present_rng (s : State) : s.present.rng = s.rng := rfl
@[simp] theorem State.present_frames (s : State) : s.present.frames = s.frames := rfl
@[simp] theorem State.present_draws (s : State) : s.present.draws = s.draws := rfl
@[simp] theorem State.present_presented (s : State) : s.present.presented = some s.outputs := rfl

@[simp] theorem State.afterInput_v (s : State) : s.afterInput.v = s.v := rfl
@[simp] theorem State.afterInput_i (s : State) : s.afterInput.i = s.i := rfl
@[simp] theorem State.afterInput_pc (s : State) : s.afterInput.pc = s.pc := rfl
@[simp] theorem State.afterInput_stack (s : State) : s.afterInput.stack = s.stack := rfl
@[simp] theorem State.afterInput_sp (s : State) : s.afterInput.sp = s.sp := rfl
@[simp] theorem State.afterInput_disp (s : State) : s.afterInput.disp = s.disp := rfl
@[simp] theorem State.afterInput_keys (s : State) : s.afterInput.keys = s.keys := rfl
@[simp] theorem State.afterInput_dt (s : State) : s.afterInput.dt = s.dt := rfl
@[simp] theorem State.afterInput_st (s : State) : s.afterInput.st = s.st := rfl
@[simp] theorem State.afterInput_runState (s : State) : s.afterInput.runState = s.runState := rfl
@[simp] theorem State.afterInput_fault (s : State) : s.afterInput.fault = s.fault := rfl
@[simp] theorem State.afterInput_mem (s : State) : s.afterInput.mem = s.mem := rfl
@[simp] theorem State.afterInput_k (s : State) : s.afterInput.k = s.k := rfl
@[simp] theorem State.afterInput_fx29High (s : State) : s.afterInput.fx29High = s.fx29High := rfl
@[simp] theorem State.afterInput_left (s : State) : s.afterInput.left = s.left := rfl
@[simp] theorem State.afterInput_inputs (s : State) : s.afterInput.inputs = s.inputs.tail := rfl
@[simp] theorem State.afterInput_rng (s : State) : s.afterInput.rng = s.rng := rfl
@[simp] theorem State.afterInput_frames (s : State) : s.afterInput.frames = s.frames + 1 := rfl
@[simp] theorem State.afterInput_draws (s : State) : s.afterInput.draws = s.draws := rfl
@[simp] theorem State.afterInput_presented (s : State) : s.afterInput.presented = s.presented := rfl

@[simp] theorem timerTick_v (s : State) : (timerTick s).v = s.v := rfl
@[simp] theorem timerTick_i (s : State) : (timerTick s).i = s.i := rfl
@[simp] theorem timerTick_pc (s : State) : (timerTick s).pc = s.pc := rfl
@[simp] theorem timerTick_stack (s : State) : (timerTick s).stack = s.stack := rfl
@[simp] theorem timerTick_sp (s : State) : (timerTick s).sp = s.sp := rfl
@[simp] theorem timerTick_disp (s : State) : (timerTick s).disp = s.disp := rfl
@[simp] theorem timerTick_keys (s : State) : (timerTick s).keys = s.keys := rfl
@[simp] theorem timerTick_dt (s : State) : (timerTick s).dt = if s.dt = 0#8 then s.dt else s.dt - 1#8 := rfl
@[simp] theorem timerTick_st (s : State) : (timerTick s).st = if s.st = 0#8 then s.st else s.st - 1#8 := rfl
@[simp] theorem timerTick_runState (s : State) : (timerTick s).runState = s.runState := rfl
@[simp] theorem timerTick_fault (s : State) : (timerTick s).fault = s.fault := rfl
@[simp] theorem timerTick_mem (s : State) : (timerTick s).mem = s.mem := rfl
@[simp] theorem timerTick_k (s : State) : (timerTick s).k = s.k := rfl
@[simp] theorem timerTick_fx29High (s : State) : (timerTick s).fx29High = s.fx29High := rfl
@[simp] theorem timerTick_left (s : State) : (timerTick s).left = s.left := rfl
@[simp] theorem timerTick_inputs (s : State) : (timerTick s).inputs = s.inputs := rfl
@[simp] theorem timerTick_rng (s : State) : (timerTick s).rng = s.rng := rfl
@[simp] theorem timerTick_frames (s : State) : (timerTick s).frames = s.frames := rfl
@[simp] theorem timerTick_draws (s : State) : (timerTick s).draws = s.draws := rfl
@[simp] theorem timerTick_presented (s : State) : (timerTick s).presented = s.presented := rfl

@[simp] theorem State.skipIf_v (s : State) (c : Bool) : (s.skipIf c).v = s.v := by cases c <;> rfl
@[simp] theorem State.skipIf_i (s : State) (c : Bool) : (s.skipIf c).i = s.i := by cases c <;> rfl
@[simp] theorem State.skipIf_stack (s : State) (c : Bool) : (s.skipIf c).stack = s.stack := by cases c <;> rfl
@[simp] theorem State.skipIf_sp (s : State) (c : Bool) : (s.skipIf c).sp = s.sp := by cases c <;> rfl
@[simp] theorem State.skipIf_disp (s : State) (c : Bool) : (s.skipIf c).disp = s.disp := by cases c <;> rfl
@[simp] theorem State.skipIf_keys (s : State) (c : Bool) : (s.skipIf c).keys = s.keys := by cases c <;> rfl
@[simp] theorem State.skipIf_dt (s : State) (c : Bool) : (s.skipIf c).dt = s.dt := by cases c <;> rfl
@[simp] theorem State.skipIf_st (s : State) (c : Bool) : (s.skipIf c).st = s.st := by cases c <;> rfl
@[simp] theorem State.skipIf_runState (s : State) (c : Bool) : (s.skipIf c).runState = s.runState := by cases c <;> rfl
@[simp] theorem State.skipIf_fault (s : State) (c : Bool) : (s.skipIf c).fault = s.fault := by cases c <;> rfl
@[simp] theorem State.skipIf_mem (s : State) (c : Bool) : (s.skipIf c).mem = s.mem := by cases c <;> rfl
@[simp] theorem State.skipIf_k (s : State) (c : Bool) : (s.skipIf c).k = s.k := by cases c <;> rfl
@[simp] theorem State.skipIf_fx29High (s : State) (c : Bool) : (s.skipIf c).fx29High = s.fx29High := by cases c <;> rfl
@[simp] theorem State.skipIf_left (s : State) (c : Bool) : (s.skipIf c).left = s.left := by cases c <;> rfl
@[simp] theorem State.skipIf_inputs (s : State) (c : Bool) : (s.skipIf c).inputs = s.inputs := by cases c <;> rfl
@[simp] theorem State.skipIf_rng (s : State) (c : Bool) : (s.skipIf c).rng = s.rng := by cases c <;> rfl
@[simp] theorem State.skipIf_frames (s : State) (c : Bool) : (s.skipIf c).frames = s.frames := by cases c <;> rfl
@[simp] theorem State.skipIf_draws (s : State) (c : Bool) : (s.skipIf c).draws = s.draws := by cases c <;> rfl
@[simp] theorem State.skipIf_presented (s : State) (c : Bool) : (s.skipIf c).presented = s.presented := by cases c <;> rfl
@[simp] theorem State.skipIf_pc (s : State) (c : Bool) : (s.skipIf c).pc = if c then s.pc + 4#16 else s.pc + 2#16 := by
  cases c <;> simp [State.skipIf, BitVec.add_assoc]

@[simp] theorem State.push_v (s : State) (w : Word) : (s.push w).v = s.v := by unfold State.push; split <;> rfl
@[simp] theorem State.push_i (s : State) (w : Word) : (s.push w).i = s.i := by unfold State.push; split <;> rfl
@[simp] theorem State.push_pc (s : State) (w : Word) : (s.push w).pc = s.pc := by unfold State.push; split <;> rfl
@[simp] theorem State.push_disp (s : State) (w : Word) : (s.push w).disp = s.disp := by unfold State.push; split <;> rfl
@[simp] theorem State.push_keys (s : State) (w : Word) : (s.push w).keys = s.keys := by unfold State.push; split <;> rfl
@[simp] theorem State.push_dt (s : State) (w : Word) : (s.push w).dt = s.dt := by unfold State.push; split <;> rfl
@[simp] theorem State.push_st (s : State) (w : Word) : (s.push w).st = s.st := by unfold State.push; split <;> rfl
@[simp] theorem State.push_runState (s : State) (w : Word) : (s.push w).runState = s.runState := by unfold State.push; split <;> rfl
@[simp] theorem State.push_fault (s : State) (w : Word) : (s.push w).fault = s.fault := by unfold State.push; split <;> rfl
@[simp] theorem State.push_mem (s : State) (w : Word) : (s.push w).mem = s.mem := by unfold State.push; split <;> rfl
@[simp] theorem State.push_k (s : State) (w : Word) : (s.push w).k = s.k := by unfold State.push; split <;> rfl
@[simp] theorem State.push_fx29High (s : State) (w : Word) : (s.push w).fx29High = s.fx29High := by unfold State.push; split <;> rfl
@[simp] theorem State.push_left (s : State) (w : Word) : (s.push w).left = s.left := by unfold State.push; split <;> rfl
@[simp] theorem State.push_inputs (s : State) (w : Word) : (s.push w).inputs = s.inputs := by unfold State.push; split <;> rfl
@[simp] theorem State.push_rng (s : State) (w : Word) : (s.push w).rng = s.rng := by unfold State.push; split <;> rfl
@[simp] theorem State.push_frames (s : State) (w : Word) : (s.push w).frames = s.frames := by unfold State.push; split <;> rfl
@[simp] theorem State.push_draws (s : State) (w : Word) : (s.push w).draws = s.draws := by unfold State.push; split <;> rfl
@[simp] theorem State.push_presented (s : State) (w : Word) : (s.push w).presented = s.presented := by unfold State.push; split <;> rfl

@[simp] theorem State.writeFlagThenResult_i (s : State) (x : Nibble) (c : Bool) (b : Byte) : (s.writeFlagThenResult x c b).i = s.i := rfl
@[simp] theorem State.writeFlagThenResult_pc (s : State) (x : Nibble) (c : Bool) (b : Byte) : (s.writeFlagThenResult x c b).pc = s.pc := rfl
@[simp] theorem State.writeFlagThenResult_stack (s : State) (x : Nibble) (c : Bool) (b : Byte) : (s.writeFlagThenResult x c b).stack = s.stack := rfl
@[simp] theorem State.writeFlagThenResult_sp (s : State) (x : Nibble) (c : Bool) (b : Byte) : (s.writeFlagThenResult x c b).sp = s.sp := rfl
@[simp] theorem State.writeFlagThenResult_disp (s : State) (x : Nibble) (c : Bool) (b : Byte) : (s.writeFlagThenResult x c b).disp = s.disp := rfl
@[simp] theorem State.writeFlagThenResult_keys (s : State) (x : Nibble) (c : Bool) (b : Byte) : (s.writeFlagThenResult x c b).keys = s.keys := rfl
@[simp] theorem State.writeFlagThenResult_dt (s : State) (x : Nibble) (c : Bool) (b : Byte) : (s.writeFlagThenResult x c b).dt = s.dt := rfl
@[simp] theorem State.writeFlagThenResult_st (s : State) (x : Nibble) (c : Bool) (b : Byte) : (s.writeFlagThenResult x c b).st = s.st := rfl
@[simp] theorem State.writeFlagThenResult_runState (s : State) (x : Nibble) (c : Bool) (b : Byte) : (s.writeFlagThenResult x c b).runState = s.runState := rfl
@[simp] theorem State.writeFlagThenResult_fault (s : State) (x : Nibble) (c : Bool) (b : Byte) : (s.writeFlagThenResult x c b).fault = s.fault := rfl
@[simp] theorem State.writeFlagThenResult_k (s : State) (x : Nibble) (c : Bool) (b : Byte) : (s.writeFlagThenResult x c b).k = s.k := rfl
@[simp] theorem State.writeFlagThenResult_fx29High (s : State) (x : Nibble) (c : Bool) (b : Byte) : (s.writeFlagThenResult x c b).fx29High = s.fx29High := rfl
@[simp] theorem State.writeFlagThenResult_left (s : State) (x : Nibble) (c : Bool) (b : Byte) : (s.writeFlagThenResult x c b).left = s.left := rfl
@[simp] theorem State.writeFlagThenResult_inputs (s : State) (x : Nibble) (c : Bool) (b : Byte) : (s.writeFlagThenResult x c b).inputs = s.inputs := rfl
@[simp] theorem State.writeFlagThenResult_rng (s : State) (x : Nibble) (c : Bool) (b : Byte) : (s.writeFlagThenResult x c b).rng = s.rng := rfl
@[simp] theorem State.writeFlagThenResult_frames (s : State) (x : Nibble) (c : Bool) (b : Byte) : (s.writeFlagThenResult x c b).frames = s.frames := rfl
@[simp] theorem State.writeFlagThenResult_draws (s : State) (x : Nibble) (c : Bool) (b : Byte) : (s.writeFlagThenResult x c b).draws = s.draws := rfl
@[simp] theorem State.writeFlagThenResult_presented (s : State) (x : Nibble) (c : Bool) (b : Byte) : (s.writeFlagThenResult x c b).presented = s.presented := rfl
@[simp] theorem State.writeFlagThenResult_mem (s : State) (x : Nibble) (c : Bool) (b : Byte) : (s.writeFlagThenResult x c b).mem = s.mem := rfl

@[simp] theorem State.storeRegs_v (s : State) (a n : Nat) : (s.storeRegs a n).v = s.v := by
  induction n with
  | zero => rfl
  | succ n ih => simpa [State.storeRegs] using ih
@[simp] theorem State.storeRegs_i (s : State) (a n : Nat) : (s.storeRegs a n).i = s.i := by
  induction n with
  | zero => rfl
  | succ n ih => simpa [State.storeRegs] using ih
@[simp] theorem State.storeRegs_pc (s : State) (a n : Nat) : (s.storeRegs a n).pc = s.pc := by
  induction n with
  | zero => rfl
  | succ n ih => simpa [State.storeRegs] using ih
@[simp] theorem State.storeRegs_stack (s : State) (a n : Nat) : (s.storeRegs a n).stack = s.stack := by
  induction n with
  | zero => rfl
  | succ n ih => simpa [State.storeRegs] using ih
@[simp] theorem State.storeRegs_sp (s : State) (a n : Nat) : (s.storeRegs a n).sp = s.sp := by
  induction n with
  | zero => rfl
  | succ n ih => simpa [State.storeRegs] using ih
@[simp] theorem State.storeRegs_disp (s : State) (a n : Nat) : (s.storeRegs a n).disp = s.disp := by
  induction n with
  | zero => rfl
  | succ n ih => simpa [State.storeRegs] using ih
@[simp] theorem State.storeRegs_keys (s : State) (a n : Nat) : (s.storeRegs a n).keys = s.keys := by
  induction n with
  | zero => rfl
  | succ n ih => simpa [State.storeRegs] using ih
@[simp] theorem State.storeRegs_dt (s : State) (a n : Nat) : (s.storeRegs a n).dt = s.dt := by
  induction n with
  | zero => rfl
  | succ n ih => simpa [State.storeRegs] using ih
@[simp] theorem State.storeRegs_st (s : State) (a n : Nat) : (s.storeRegs a n).st = s.st := by
  induction n with
  | zero => rfl
  | succ n ih => simpa [State.storeRegs] using ih
@[simp] theorem State.storeRegs_runState (s : State) (a n : Nat) : (s.storeRegs a n).runState = s.runState := by
  induction n with
  | zero => rfl
  | succ n ih => simpa [State.storeRegs] using ih
@[simp] theorem State.storeRegs_fault (s : State) (a n : Nat) : (s.storeRegs a n).fault = s.fault := by
  induction n with
  | zero => rfl
  | succ n ih => simpa [State.storeRegs] using ih
@[simp] theorem State.storeRegs_k (s : State) (a n : Nat) : (s.storeRegs a n).k = s.k := by
  induction n with
  | zero => rfl
  | succ n ih => simpa [State.storeRegs] using ih
@[simp] theorem State.storeRegs_fx29High (s : State) (a n : Nat) : (s.storeRegs a n).fx29High = s.fx29High := by
  induction n with
  | zero => rfl
  | succ n ih => simpa [State.storeRegs] using ih
@[simp] theorem State.storeRegs_left (s : State) (a n : Nat) : (s.storeRegs a n).left = s.left := by
  induction n with
  | zero => rfl
  | succ n ih => simpa [State.storeRegs] using ih
@[simp] theorem State.storeRegs_inputs (s : State) (a n : Nat) : (s.storeRegs a n).inputs = s.inputs := by
  induction n with
  | zero => rfl
  | succ n ih => simpa [State.storeRegs] using ih
@[simp] theorem State.storeRegs_rng (s : State) (a n : Nat) : (s.storeRegs a n).rng = s.rng := by
  induction n with
  | zero => rfl
  | succ n ih => simpa [State.storeRegs] using ih
@[simp] theorem State.storeRegs_frames (s : State) (a n : Nat) : (s.storeRegs a n).frames = s.frames := by
  induction n with
  | zero => rfl
  | succ n ih => simpa [State.storeRegs] using ih
@[simp] theorem State.storeRegs_draws (s : State) (a n : Nat) : (s.storeRegs a n).draws = s.draws := by
  induction n with
  | zero => rfl
  | succ n ih => simpa [State.storeRegs] using ih
@[simp] theorem State.storeRegs_presented (s : State) (a n : Nat) : (s.storeRegs a n).presented = s.presented := by
  induction n with
  | zero => rfl
  | succ n ih => simpa [State.storeRegs] using ih

@[simp] theorem State.loadRegs_i (s : State) (a n : Nat) : (s.loadRegs a n).i = s.i := by
  induction n with
  | zero => rfl
  | succ n ih => simpa [State.loadRegs] using ih
@[simp] theorem State.loadRegs_pc (s : State) (a n : Nat) : (s.loadRegs a n).pc = s.pc := by
  induction n with
  | zero => rfl
  | succ n ih => simpa [State.loadRegs] using ih
@[simp] theorem State.loadRegs_stack (s : State) (a n : Nat) : (s.loadRegs a n).stack = s.stack := by
  induction n with
  | zero => rfl
  | succ n ih => simpa [State.loadRegs] using ih
@[simp] theorem State.loadRegs_sp (s : State) (a n : Nat) : (s.loadRegs a n).sp = s.sp := by
  induction n with
  | zero => rfl
  | succ n ih => simpa [State.loadRegs] using ih
@[simp] theorem State.loadRegs_disp (s : State) (a n : Nat) : (s.loadRegs a n).disp = s.disp := by
  induction n with
  | zero => rfl
  | succ n ih => simpa [State.loadRegs] using ih
@[simp] theorem State.loadRegs_keys (s : State) (a n : Nat) : (s.loadRegs a n).keys = s.keys := by
  induction n with
  | zero => rfl
  | succ n ih => simpa [State.loadRegs] using ih
@[simp] theorem State.loadRegs_dt (s : State) (a n : Nat) : (s.loadRegs a n).dt = s.dt := by
  induction n with
  | zero => rfl
  | succ n ih => simpa [State.loadRegs] using ih
@[simp] theorem State.loadRegs_st (s : State) (a n : Nat) : (s.loadRegs a n).st = s.st := by
  induction n with
  | zero => rfl
  | succ n ih => simpa [State.loadRegs] using ih
@[simp] theorem State.loadRegs_runState (s : State) (a n : Nat) : (s.loadRegs a n).runState = s.runState := by
  induction n with
  | zero => rfl
  | succ n ih => simpa [State.loadRegs] using ih
@[simp] theorem State.loadRegs_fault (s : State) (a n : Nat) : (s.loadRegs a n).fault = s.fault := by
  induction n with
  | zero => rfl
  | succ n ih => simpa [State.loadRegs] using ih
@[simp] theorem State.loadRegs_mem (s : State) (a n : Nat) : (s.loadRegs a n).mem = s.mem := by
  induction n with
  | zero => rfl
  | succ n ih => simpa [State.loadRegs] using ih
@[simp] theorem State.loadRegs_k (s : State) (a n : Nat) : (s.loadRegs a n).k = s.k := by
  induction n with
  | zero => rfl
  | succ n ih => simpa [State.loadRegs] using ih
@[simp] theorem State.loadRegs_fx29High (s : State) (a n : Nat) : (s.loadRegs a n).fx29High = s.fx29High := by
  induction n with
  | zero => rfl
  | succ n ih => simpa [State.loadRegs] using ih
@[simp] theorem State.loadRegs_left (s : State) (a n : Nat) : (s.loadRegs a n).left = s.left := by
  induction n with
  | zero => rfl
  | succ n ih => simpa [State.loadRegs] using ih
@[simp] theorem State.loadRegs_inputs (s : State) (a n : Nat) : (s.loadRegs a n).inputs = s.inputs := by
  induction n with
  | zero => rfl
  | succ n ih => simpa [State.loadRegs] using ih
@[simp] theorem State.loadRegs_rng (s : State) (a n : Nat) : (s.loadRegs a n).rng = s.rng := by
  induction n with
  | zero => rfl
  | succ n ih => simpa [State.loadRegs] using ih
@[simp] theorem State.loadRegs_frames (s : State) (a n : Nat) : (s.loadRegs a n).frames = s.frames := by
  induction n with
  | zero => rfl
  | succ n ih => simpa [State.loadRegs] using ih
@[simp] theorem State.loadRegs_draws (s : State) (a n : Nat) : (s.loadRegs a n).draws = s.draws := by
  induction n with
  | zero => rfl
  | succ n ih => simpa [State.loadRegs] using ih
@[simp] theorem State.loadRegs_presented (s : State) (a n : Nat) : (s.loadRegs a n).presented = s.presented := by
  induction n with
  | zero => rfl
  | succ n ih => simpa [State.loadRegs] using ih

end Sys2Proof.Machine
end

