-- ==== Sys2Proof/Laws/Memory.lean ====
section
/-! SUPPORT. The laws of memory: a read after a write, and that every memory operation keeps the canonical form. -/

namespace Sys2Proof.Machine

open Sys2Proof

/-! ## Reading back -/

theorem Memory.read_erase (m : Memory) (a b : Nat) :
    Memory.read (Memory.erase m a) b = if b = a then background b else Memory.read m b := by
  induction m with
  | nil => simp [Memory.erase, Memory.read]
  | cons c m ih =>
    obtain ⟨c, u⟩ := c
    by_cases hc : c = a <;> by_cases hb : c = b <;> simp_all [Memory.erase, Memory.read]

theorem Memory.read_insert (m : Memory) (a b : Nat) (v : Byte) (fresh : ∀ p ∈ m, p.1 ≠ a) :
    Memory.read (Memory.insert m a v) b = if b = a then v else Memory.read m b := by
  induction m with
  | nil =>
    by_cases h : b = a
    · simp [Memory.insert, Memory.read, h]
    · simp [Memory.insert, Memory.read, h, Ne.symm h]
  | cons c m ih =>
    obtain ⟨c, u⟩ := c
    have hca : c ≠ a := fresh (c, u) (by simp)
    have ih := ih fun p hp => fresh p (by simp [hp])
    by_cases hlt : a < c
    · by_cases h : b = a
      · simp [Memory.insert, Memory.read, hlt, h]
      · simp [Memory.insert, Memory.read, hlt, h, Ne.symm h]
    · by_cases hb : c = b
      · subst hb
        simp [Memory.insert, Memory.read, hlt, hca]
      · simp [Memory.insert, Memory.read, hlt, hb, ih]

theorem Memory.erase_fresh (m : Memory) (a : Nat) : ∀ p ∈ Memory.erase m a, p.1 ≠ a := by
  induction m with
  | nil => simp [Memory.erase]
  | cons c m ih =>
    obtain ⟨c, u⟩ := c
    by_cases hc : c = a
    · simpa [Memory.erase, hc] using ih
    · simp only [Memory.erase, hc, if_false, List.mem_cons]
      rintro p (rfl | hp)
      · exact hc
      · exact ih p hp

/-- A read after a write, in every memory. -/
theorem Memory.read_write (m : Memory) (a b : Nat) (v : Byte) :
    Memory.read (Memory.write m a v) b = if b = a then v else Memory.read m b := by
  unfold Memory.write
  split
  · next h =>
    rw [Memory.read_erase]
    by_cases hb : b = a
    · simp [hb, h]
    · simp [hb]
  · rw [Memory.read_insert _ _ _ _ (Memory.erase_fresh m a), Memory.read_erase]
    by_cases hb : b = a <;> simp [hb]

@[simp] theorem Memory.read_write_same (m : Memory) (a : Nat) (v : Byte) : (Memory.write m a v).read a = v := by
  simp [Memory.read_write]

theorem Memory.read_write_other (m : Memory) (a b : Nat) (v : Byte) (h : b ≠ a) :
    (Memory.write m a v).read b = Memory.read m b := by
  simp [Memory.read_write, h]

/-- A list of bytes written from `a` on is read back at `a + j`. -/
theorem Memory.read_writeList (m : Memory) (a b : Nat) (bs : List Byte) :
    Memory.read (Memory.writeList m a bs) b = if a ≤ b ∧ b < a + bs.length then bs.getD (b - a) 0#8 else Memory.read m b := by
  induction bs generalizing m a with
  | nil =>
    simp [Memory.writeList]
  | cons v bs ih =>
    rw [Memory.writeList, ih, Memory.read_write]
    by_cases h : b = a
    · subst h
      simp
    · by_cases hin : a + 1 ≤ b ∧ b < a + 1 + bs.length
      · have h2 : a ≤ b ∧ b < a + (v :: bs).length := by simp only [List.length_cons]; omega
        have h3 : b - a = (b - (a + 1)) + 1 := by omega
        simp only [hin, h2, and_self, if_true, h3, List.getD_cons_succ]
      · have h2 : ¬(a ≤ b ∧ b < a + (v :: bs).length) := by simp only [List.length_cons]; omega
        simp only [if_neg hin, if_neg h2, if_neg h]

/-! ## The canonical form -/

theorem Memory.wfFrom_mono {lo lo' : Nat} {m : Memory} (h : Memory.wfFrom lo m = true) (hle : lo' ≤ lo) :
    Memory.wfFrom lo' m = true := by
  cases m with
  | nil => rfl
  | cons c m =>
    obtain ⟨c, u⟩ := c
    simp only [Memory.wfFrom, Bool.and_eq_true, decide_eq_true_eq] at h ⊢
    exact ⟨⟨⟨le_trans hle h.1.1.1, h.1.1.2⟩, h.1.2⟩, h.2⟩

theorem Memory.wfFrom_erase {lo : Nat} {m : Memory} (a : Nat) (h : Memory.wfFrom lo m = true) :
    Memory.wfFrom lo (Memory.erase m a) = true := by
  induction m generalizing lo with
  | nil => rfl
  | cons c m ih =>
    obtain ⟨c, u⟩ := c
    simp only [Memory.wfFrom, Bool.and_eq_true, decide_eq_true_eq] at h
    simp only [Memory.erase]
    split
    · exact Memory.wfFrom_mono (ih h.2) (by omega)
    · simp only [Memory.wfFrom, Bool.and_eq_true, decide_eq_true_eq]
      exact ⟨h.1, ih h.2⟩

theorem Memory.wfFrom_insert {lo : Nat} {m : Memory} {a : Nat} {v : Byte} (h : Memory.wfFrom lo m = true)
    (hlo : lo ≤ a) (ha : a < memSize) (hv : v ≠ background a) (fresh : ∀ p ∈ m, p.1 ≠ a) :
    Memory.wfFrom lo (Memory.insert m a v) = true := by
  induction m generalizing lo with
  | nil => simp [Memory.insert, Memory.wfFrom, hlo, ha, hv]
  | cons c m ih =>
    obtain ⟨c, u⟩ := c
    have hca : c ≠ a := fresh (c, u) (by simp)
    simp only [Memory.wfFrom, Bool.and_eq_true, decide_eq_true_eq] at h
    simp only [Memory.insert]
    split
    · simp only [Memory.wfFrom, Bool.and_eq_true, decide_eq_true_eq]
      exact ⟨⟨⟨hlo, ha⟩, hv⟩, ⟨⟨by omega, h.1.1.2⟩, h.1.2⟩, h.2⟩
    · simp only [Memory.wfFrom, Bool.and_eq_true, decide_eq_true_eq]
      exact ⟨h.1, ih h.2 (by omega) fun p hp => fresh p (by simp [hp])⟩

/-- A write inside the memory keeps the canonical form. -/
theorem Memory.wf_write {m : Memory} {a : Nat} (v : Byte) (h : Memory.wf m = true) (ha : a < memSize) :
    Memory.wf (Memory.write m a v) = true := by
  unfold Memory.write
  split
  · exact Memory.wfFrom_erase a h
  · next hv => exact Memory.wfFrom_insert (Memory.wfFrom_erase a h) (Nat.zero_le a) ha hv (Memory.erase_fresh m a)

theorem Memory.wf_writeList {m : Memory} {a : Nat} (bs : List Byte) (h : Memory.wf m = true)
    (ha : a + bs.length ≤ memSize) : Memory.wf (Memory.writeList m a bs) = true := by
  induction bs generalizing m a with
  | nil => exact h
  | cons v bs ih =>
    simp only [List.length_cons] at ha
    exact ih (Memory.wf_write v h (by omega)) (by omega)

/-- A register dump inside the memory keeps the canonical form. -/
theorem State.wf_storeRegs {s : State} {a n : Nat} (h : s.mem.wf = true) (ha : a + n ≤ memSize) :
    (s.storeRegs a n).mem.wf = true := by
  induction n with
  | zero => exact h
  | succ n ih => exact Memory.wf_write _ (ih (by omega)) (by omega)

theorem State.reset_mem_wf : State.reset.mem.wf = true := rfl

/-- A canonical memory is known by what it reads: an address below the first entry reads as an unlisted one. -/
theorem Memory.read_below {lo : Nat} {m : Memory} (h : Memory.wfFrom lo m = true) {a : Nat} (ha : a < lo) :
    Memory.read m a = background a := by
  induction m generalizing lo with
  | nil => rfl
  | cons c m ih =>
    obtain ⟨c, u⟩ := c
    simp only [Memory.wfFrom, Bool.and_eq_true, decide_eq_true_eq] at h
    rw [Memory.read, if_neg (by omega)]
    exact ih h.2 (by omega)

end Sys2Proof.Machine
end

