-- ==== Sys2Proof/Laws/Registers.lean ====
section
/-! SUPPORT. The laws of the general registers, and the order of the flag and result writes (spec/42_alu.md R180). -/

namespace Sys2Proof.Machine

open Sys2Proof

theorem State.getV_setV (s : State) (x z : Nibble) (b : Byte) :
    (s.setV x b).getV z = if z = x then b else s.getV z := by
  simp only [State.getV, State.setV, Fin.getElem_fin]
  by_cases h : z = x
  · subst h
    simp
  · have : (x.toFin : Nat) ≠ z.toFin := by
      intro e
      exact h (BitVec.eq_of_toFin_eq (Fin.ext e.symm))
    simp only [h, if_false]
    exact Vector.getElem_set_ne _ _ this

@[simp] theorem State.getV_setV_same (s : State) (x : Nibble) (b : Byte) : (s.setV x b).getV x = b := by
  simp [State.getV_setV]

theorem State.getV_setV_ne (s : State) {x z : Nibble} (b : Byte) (h : z ≠ x) : (s.setV x b).getV z = s.getV z := by
  simp [State.getV_setV, h]

/-- A register reads the same in two states with the same registers. -/
theorem State.getV_congr {s t : State} (h : t.v = s.v) (z : Nibble) : t.getV z = s.getV z := by
  simp only [State.getV, h]

@[simp] theorem State.getV_advancePc (s : State) (z : Nibble) : s.advancePc.getV z = s.getV z := rfl

@[simp] theorem State.getV_setPc (s : State) (w : Word) (z : Nibble) : (s.setPc w).getV z = s.getV z := rfl

@[simp] theorem State.getV_setDisp (s : State) (d : Display) (z : Nibble) : (s.setDisp d).getV z = s.getV z := rfl

@[simp] theorem State.getV_afterRandByte (s : State) (z : Nibble) : s.afterRandByte.getV z = s.getV z := rfl

/-- Every register after a flag and a result are written: the result wins where x is F. -/
theorem State.getV_writeFlagThenResult (s : State) (x z : Nibble) (c : Bool) (b : Byte) :
    (s.writeFlagThenResult x c b).getV z = if z = x then b else if z = vf then flagByte c else s.getV z := by
  simp only [State.writeFlagThenResult, State.getV_setV]

theorem flagByte_toNat (c : Bool) : (flagByte c).toNat = c.toNat := by cases c <;> rfl

/-! ## Register dump and load -/

theorem nibble_ofNat_toNat {n : Nat} (h : n < 16) : (BitVec.ofNat 4 n).toNat = n := by
  simpa using h

/-- A register after V0 .. V(n-1) are loaded. -/
theorem State.getV_loadRegs (s : State) (a n : Nat) (hn : n ≤ 16) (z : Nibble) :
    (s.loadRegs a n).getV z = if z.toNat < n then s.mem.read (a + z.toNat) else s.getV z := by
  induction n with
  | zero => simp [State.loadRegs]
  | succ n ih =>
    have hlt : n < 16 := by omega
    rw [State.loadRegs, State.getV_setV, ih (by omega)]
    by_cases h : z = BitVec.ofNat 4 n
    · have hz : z.toNat = n := by rw [h, nibble_ofNat_toNat hlt]
      simp [h, nibble_ofNat_toNat hlt]
    · have hz : z.toNat ≠ n := by
        intro e
        exact h (BitVec.eq_of_toNat_eq (by rw [e, nibble_ofNat_toNat hlt]))
      have : (z.toNat < n + 1) ↔ z.toNat < n := by omega
      simp [h, this]

end Sys2Proof.Machine
end

