-- ==== Sys2Proof/Laws/Ops.lean ====
section
/-! SUPPORT. One lemma for each shared operation: the checks, how an instruction that can fault ends, the stack, fetch,
the register dump, the blitter. -/

namespace Sys2Proof.Machine

open Sys2Proof

/-! ## Checks and their end -/

theorem addressCheck_eq_none (a n : Nat) : addressCheck a n = none ↔ n = 0 ∨ a + n ≤ memSize := by
  unfold addressCheck
  split <;> simp <;> omega

theorem addressCheck_eq_some (a n : Nat) (e : Raise) :
    addressCheck a n = some e ↔
      (n ≠ 0 ∧ memSize < a + n) ∧ e = { code := .addressOutOfRange, detail := max a memSize } := by
  unfold addressCheck
  split
  · rw [Option.some.injEq, eq_comm]
    constructor
    · intro h
      exact ⟨by omega, h⟩
    · exact And.right
  · constructor
    · intro h
      cases h
    · rintro ⟨h, -⟩
      omega

theorem keyCheck_eq_none (b : Byte) : keyCheck b = none ↔ b.toNat ≤ 15 := by
  unfold keyCheck
  split <;> simp <;> omega

theorem keyCheck_eq_some (b : Byte) (e : Raise) :
    keyCheck b = some e ↔ 15 < b.toNat ∧ e = { code := .keyIndexOutOfRange, detail := b.toNat } := by
  unfold keyCheck
  split
  · next h => simp [h, eq_comm]
  · next h => simp [h]

theorem State.pushCheck_eq_none (s : State) (w : Word) : s.pushCheck w = none ↔ s.sp.val < 12 := by
  unfold State.pushCheck
  split <;> simp <;> omega

theorem State.popCheck_eq_none (s : State) : s.popCheck = none ↔ 0 < s.sp.val := by
  unfold State.popCheck
  split <;> simp <;> omega

/-- An instruction whose check raises nothing ends in its own effect. -/
theorem attempt_none (i : Instr) (s : State) (done : State) : attempt i s none done = .next done := rfl

/-- An instruction whose check raises takes the fault, from the state before it. -/
theorem attempt_some (i : Instr) (s : State) (e : Raise) (done : State) :
    attempt i s (some e) done = .next (s.takeFault (some (encode i)) e) := rfl

/-- Everything an instruction that can fault answers. -/
theorem attempt_cases {i : Instr} {s done t : State} {raised : Option Raise} (h : attempt i s raised done = .next t) :
    (raised = none ∧ t = done) ∨ ∃ e, raised = some e ∧ t = s.takeFault (some (encode i)) e := by
  cases raised with
  | none => exact .inl ⟨rfl, (Host.Outcome.next.inj h).symm⟩
  | some e => exact .inr ⟨e, rfl, (Host.Outcome.next.inj h).symm⟩

/-! ## The call stack -/

theorem State.push_sp {s : State} (w : Word) (h : s.sp.val < 12) : (s.push w).sp.val = s.sp.val + 1 := by
  simp [State.push, h]

/-- Every stack entry after a push. -/
theorem State.push_entry {s : State} (w : Word) (h : s.sp.val < 12) (k : Nat) (hk : k < 12) :
    (s.push w).stack[k] = if k = s.sp.val then w else s.stack[k] := by
  simp only [State.push, h, dif_pos]
  rw [Vector.getElem_set]
  by_cases e : s.sp.val = k
  · simp [e]
  · simp [e, Ne.symm e]

theorem State.dropTop_sp (s : State) : s.dropTop.sp.val = s.sp.val - 1 := rfl

theorem State.top_eq (s : State) : s.top = s.stack[s.sp.val - 1]'(by omega) := rfl

/-! ## Fetch -/

theorem State.fetch_ok {s : State} (h : s.pc.toNat + 1 < memSize) : s.fetch = .ok (s.mem.word s.pc.toNat) := by
  have : addressCheck s.pc.toNat 2 = none := (addressCheck_eq_none _ _).2 (.inr (by omega))
  simp only [State.fetch, this]

theorem State.fetch_error {s : State} (h : memSize ≤ s.pc.toNat + 1) :
    s.fetch = .error { code := .addressOutOfRange, detail := max s.pc.toNat memSize } := by
  have : addressCheck s.pc.toNat 2 = some { code := .addressOutOfRange, detail := max s.pc.toNat memSize } :=
    (addressCheck_eq_some _ _ _).2 ⟨⟨by decide, by omega⟩, rfl⟩
  simp only [State.fetch, this]

/-- The fetch of two states with the same PC and memory is the same. -/
theorem State.fetch_congr {s t : State} (hpc : t.pc = s.pc) (hmem : t.mem = s.mem) : t.fetch = s.fetch := by
  simp only [State.fetch, hpc, hmem]

/-- A cycle answers the fetch fault or the decoded instruction. -/
theorem cycle_of_fetch_ok {s : State} (h : s.pc.toNat + 1 < memSize) :
    cycle s = exec (decode (s.mem.word s.pc.toNat)) s := by
  simp only [cycle, State.fetch_ok h]

theorem cycle_of_fetch_error {s : State} (h : memSize ≤ s.pc.toNat + 1) :
    cycle s = .next (s.takeFault none { code := .addressOutOfRange, detail := max s.pc.toNat memSize }) := by
  simp only [cycle, State.fetch_error h]

/-! ## Register dump -/

/-- Every byte of memory after V0 .. V(n-1) are stored. -/
theorem State.read_storeRegs (s : State) (a n : Nat) (b : Nat) :
    (s.storeRegs a n).mem.read b =
      if a ≤ b ∧ b < a + n then s.getV (BitVec.ofNat 4 (b - a)) else s.mem.read b := by
  induction n with
  | zero =>
    have : ¬(a ≤ b ∧ b < a + 0) := by omega
    rw [if_neg this]
    rfl
  | succ n ih =>
    rw [State.storeRegs, State.writeByte_mem, Memory.read_write, ih]
    by_cases h : b = a + n
    · subst h
      have h1 : a ≤ a + n ∧ a + n < a + (n + 1) := by omega
      have h2 : a + n - a = n := by omega
      simp only [if_true, if_pos h1, h2]
    · rw [if_neg h]
      have : (a ≤ b ∧ b < a + (n + 1)) ↔ (a ≤ b ∧ b < a + n) := by omega
      simp only [this]

/-! ## Display -/

@[simp] theorem Display.pixel_clear (x y : Nat) : Display.pixel Display.clear x y = false := by
  unfold Display.pixel Display.clear
  split
  · split
    · simp
    · rfl
  · rfl

theorem Display.pixel_off_screen (d : Display) {x y : Nat} (h : ¬(x < 64 ∧ y < 32)) : Display.pixel d x y = false := by
  unfold Display.pixel
  split
  · split
    · omega
    · rfl
  · rfl

/-- A pixel after one pixel of the grid is inverted. -/
theorem Display.pixel_flip (d : Display) {fx fy : Nat} (hx : fx < 64) (hy : fy < 32) (x y : Nat) :
    Display.pixel (Display.flip d fx fy) x y = ((decide (x = fx ∧ y = fy)) ^^ Display.pixel d x y) := by
  unfold Display.flip
  rw [dif_pos hy, dif_pos hx]
  unfold Display.pixel
  by_cases h : y < 32
  · by_cases g : x < 64
    · simp only [dif_pos h, dif_pos g]
      rw [Vector.getElem_set]
      by_cases e : fy = y
      · subst e
        simp only [if_true, and_true]
        rw [Vector.getElem_set]
        by_cases e' : fx = x
        · subst e'
          simp
        · simp [e', Ne.symm e']
      · simp [e, Ne.symm e]
    · have : ¬(x = fx ∧ y = fy) := by omega
      simp [dif_pos h, dif_neg g, this]
  · have : ¬(x = fx ∧ y = fy) := by omega
    simp [dif_neg h, this]

/-- Two displays with the same pixels are equal. -/
theorem Display.ext_pixel {d e : Display} (h : ∀ x y, x < 64 → y < 32 → Display.pixel d x y = Display.pixel e x y) :
    d = e := by
  apply Vector.ext
  intro y hy
  apply Vector.ext
  intro x hx
  have := h x y hx hy
  simpa only [Display.pixel, dif_pos hx, dif_pos hy] using this

end Sys2Proof.Machine
end

