-- ==== Sys2Proof/Laws/Draw.lean ====
section
/-! SUPPORT. What the blitter does to a pixel and to its collision flag: one bit, the bits of one row, the rows of a
sprite (spec/44_display.md R231 to R234). -/

namespace Sys2Proof.Machine

open Sys2Proof

/-- Whether column `cx` is under one of the first `k` set bits of a sprite byte that starts at column `x0`. -/
def rowBit (b : Byte) (x0 k cx : Nat) : Bool :=
  decide (cx < 64 ∧ x0 ≤ cx ∧ cx < x0 + k) && b.getLsbD (7 - (cx - x0))

theorem rowBit_succ (b : Byte) (x0 k cx : Nat) :
    rowBit b x0 (k + 1) cx = (rowBit b x0 k cx ^^ decide (cx = x0 + k ∧ x0 + k < 64 ∧ b.getLsbD (7 - k) = true)) := by
  unfold rowBit
  by_cases h : cx = x0 + k
  · subst h
    have h1 : x0 + k - x0 = k := by omega
    have h2 : ¬(x0 + k < 64 ∧ x0 ≤ x0 + k ∧ x0 + k < x0 + k) := by omega
    by_cases h3 : x0 + k < 64
    · have h4 : x0 + k < 64 ∧ x0 ≤ x0 + k ∧ x0 + k < x0 + (k + 1) := by omega
      simp [h1, h3]
    · simp [h3]
  · have h1 : (cx < 64 ∧ x0 ≤ cx ∧ cx < x0 + (k + 1)) ↔ (cx < 64 ∧ x0 ≤ cx ∧ cx < x0 + k) := by omega
    simp only [h1, h, false_and, decide_false, Bool.xor_false]

theorem Blit.pixel_bit (c : Blit) (b : Byte) {x0 y k : Nat} (hy : y < 32) (cx cy : Nat) :
    Display.pixel (c.bit b x0 y k).disp cx cy =
      (Display.pixel c.disp cx cy ^^
        decide (cy = y ∧ cx = x0 + k ∧ x0 + k < 64 ∧ b.getLsbD (7 - k) = true)) := by
  unfold Blit.bit
  split
  · next h =>
    rw [Display.pixel_flip _ h.1 hy, Bool.xor_comm]
    have : (cx = x0 + k ∧ cy = y) ↔ (cy = y ∧ cx = x0 + k ∧ x0 + k < 64 ∧ b.getLsbD (7 - k) = true) := by
      simp only [h.1, h.2, and_true]
      exact and_comm
    simp only [this]
  · next h =>
    have : ¬(cy = y ∧ cx = x0 + k ∧ x0 + k < 64 ∧ b.getLsbD (7 - k) = true) := fun g => h g.2.2
    simp only [this, decide_false, Bool.xor_false]

theorem Blit.hit_bit (c : Blit) (b : Byte) (x0 y k : Nat) :
    (c.bit b x0 y k).hit = true ↔
      c.hit = true ∨ (x0 + k < 64 ∧ b.getLsbD (7 - k) = true ∧ Display.pixel c.disp (x0 + k) y = true) := by
  unfold Blit.bit
  split
  · next h => simp [h.1, h.2]
  · next h =>
    constructor
    · exact .inl
    · rintro (g | g)
      · exact g
      · exact absurd ⟨g.1, g.2.1⟩ h

/-- The bits of one row: every pixel. -/
theorem Blit.pixel_row (c : Blit) (b : Byte) {x0 y : Nat} (hy : y < 32) (k cx cy : Nat) :
    Display.pixel (c.row b x0 y k).disp cx cy = (Display.pixel c.disp cx cy ^^ (decide (cy = y) && rowBit b x0 k cx)) := by
  induction k with
  | zero =>
    have : rowBit b x0 0 cx = false := by
      unfold rowBit
      have : ¬(cx < 64 ∧ x0 ≤ cx ∧ cx < x0 + 0) := by omega
      simp only [this, decide_false, Bool.false_and]
    simp [Blit.row, this]
  | succ k ih =>
    rw [Blit.row, Blit.pixel_bit _ _ hy, ih, rowBit_succ, Bool.xor_assoc]
    by_cases h : cy = y <;> simp [h]

/-- The bits of one row: the collision flag. A bit of the row cannot hide the pixel under a later bit. -/
theorem Blit.hit_row (c : Blit) (b : Byte) {x0 y : Nat} (hy : y < 32) (k : Nat) :
    (c.row b x0 y k).hit = true ↔
      c.hit = true ∨ ∃ cx, rowBit b x0 k cx = true ∧ Display.pixel c.disp cx y = true := by
  induction k with
  | zero =>
    have : ∀ cx, rowBit b x0 0 cx = false := by
      intro cx
      unfold rowBit
      have : ¬(cx < 64 ∧ x0 ≤ cx ∧ cx < x0 + 0) := by omega
      simp only [this, decide_false, Bool.false_and]
    simp [Blit.row, this]
  | succ k ih =>
    have fresh : rowBit b x0 k (x0 + k) = false := by
      unfold rowBit
      have : ¬(x0 + k < 64 ∧ x0 ≤ x0 + k ∧ x0 + k < x0 + k) := by omega
      simp only [this, decide_false, Bool.false_and]
    have last : ∀ cx, rowBit b x0 (k + 1) cx = true ↔
        rowBit b x0 k cx = true ∨ (cx = x0 + k ∧ x0 + k < 64 ∧ b.getLsbD (7 - k) = true) := by
      intro cx
      rw [rowBit_succ]
      by_cases h : cx = x0 + k
      · subst h
        simp [fresh]
      · simp [h]
    rw [Blit.row, Blit.hit_bit, ih, Blit.pixel_row _ _ hy, fresh]
    simp only [last, Bool.and_false, Bool.xor_false]
    constructor
    · rintro ((h | ⟨cx, h, g⟩) | ⟨h1, h2, h3⟩)
      · exact .inl h
      · exact .inr ⟨cx, .inl h, g⟩
      · exact .inr ⟨x0 + k, .inr ⟨rfl, h1, h2⟩, h3⟩
    · rintro (h | ⟨cx, h | ⟨rfl, h1, h2⟩, g⟩)
      · exact .inl (.inl h)
      · exact .inl (.inr ⟨cx, h, g⟩)
      · exact .inr ⟨h1, h2, g⟩

theorem spriteBit_succ (m : Memory) (a r x0 y0 cx cy : Nat) (hy : y0 + r < 32) :
    spriteBit m a (r + 1) x0 y0 cx cy =
      (spriteBit m a r x0 y0 cx cy ^^ (decide (cy = y0 + r) && rowBit (m.read (a + r)) x0 8 cx)) := by
  unfold spriteBit rowBit
  by_cases h : cy = y0 + r
  · subst h
    have h1 : y0 + r - y0 = r := by omega
    have h2 : ¬(cx < 64 ∧ y0 + r < 32 ∧ x0 ≤ cx ∧ cx < x0 + 8 ∧ y0 ≤ y0 + r ∧ y0 + r < y0 + r) := by omega
    have h3 : (cx < 64 ∧ y0 + r < 32 ∧ x0 ≤ cx ∧ cx < x0 + 8 ∧ y0 ≤ y0 + r ∧ y0 + r < y0 + (r + 1)) ↔
        (cx < 64 ∧ x0 ≤ cx ∧ cx < x0 + 8) := by omega
    simp only [h1, h2, h3, decide_false, Bool.false_and, Bool.false_xor, decide_true, Bool.true_and]
  · have h3 : (cx < 64 ∧ cy < 32 ∧ x0 ≤ cx ∧ cx < x0 + 8 ∧ y0 ≤ cy ∧ cy < y0 + (r + 1)) ↔
        (cx < 64 ∧ cy < 32 ∧ x0 ≤ cx ∧ cx < x0 + 8 ∧ y0 ≤ cy ∧ cy < y0 + r) := by omega
    simp only [h3, h, decide_false, Bool.false_and, Bool.xor_false]

theorem spriteBit_zero (m : Memory) (a x0 y0 cx cy : Nat) : spriteBit m a 0 x0 y0 cx cy = false := by
  unfold spriteBit
  have : ¬(cx < 64 ∧ cy < 32 ∧ x0 ≤ cx ∧ cx < x0 + 8 ∧ y0 ≤ cy ∧ cy < y0 + 0) := by omega
  simp only [this, decide_false, Bool.false_and]

/-- The rows of a sprite that are on the screen: every pixel. -/
theorem Blit.pixel_rows (c : Blit) (m : Memory) (a x0 y0 r cx cy : Nat) (hr : y0 + r ≤ 32) :
    Display.pixel (c.rows m a x0 y0 r).disp cx cy = (Display.pixel c.disp cx cy ^^ spriteBit m a r x0 y0 cx cy) := by
  induction r with
  | zero => simp [Blit.rows, spriteBit_zero]
  | succ r ih =>
    rw [Blit.rows, Blit.pixel_row _ _ (by omega), ih (by omega), spriteBit_succ _ _ _ _ _ _ _ (by omega), Bool.xor_assoc]

/-- The rows of a sprite that are on the screen: the collision flag. -/
theorem Blit.hit_rows (c : Blit) (m : Memory) (a x0 y0 r : Nat) (hr : y0 + r ≤ 32) :
    (c.rows m a x0 y0 r).hit = true ↔
      c.hit = true ∨ ∃ cx cy, spriteBit m a r x0 y0 cx cy = true ∧ Display.pixel c.disp cx cy = true := by
  induction r with
  | zero => simp [Blit.rows, spriteBit_zero]
  | succ r ih =>
    have fresh : ∀ cx, spriteBit m a r x0 y0 cx (y0 + r) = false := by
      intro cx
      unfold spriteBit
      have : ¬(cx < 64 ∧ y0 + r < 32 ∧ x0 ≤ cx ∧ cx < x0 + 8 ∧ y0 ≤ y0 + r ∧ y0 + r < y0 + r) := by omega
      simp only [this, decide_false, Bool.false_and]
    have last : ∀ cx cy, spriteBit m a (r + 1) x0 y0 cx cy = true ↔
        spriteBit m a r x0 y0 cx cy = true ∨ (cy = y0 + r ∧ rowBit (m.read (a + r)) x0 8 cx = true) := by
      intro cx cy
      rw [spriteBit_succ _ _ _ _ _ _ _ (by omega)]
      by_cases h : cy = y0 + r
      · subst h
        simp [fresh]
      · simp [h]
    rw [Blit.rows, Blit.hit_row _ _ (by omega), ih (by omega)]
    simp only [Blit.pixel_rows _ _ _ _ _ _ _ _ (show y0 + r ≤ 32 by omega), fresh, last, Bool.xor_false]
    constructor
    · rintro ((h | ⟨cx, cy, h, g⟩) | ⟨cx, h, g⟩)
      · exact .inl h
      · exact .inr ⟨cx, cy, .inl h, g⟩
      · exact .inr ⟨cx, y0 + r, .inr ⟨rfl, h⟩, g⟩
    · rintro (h | ⟨cx, cy, h | ⟨rfl, h⟩, g⟩)
      · exact .inl (.inl h)
      · exact .inl (.inr ⟨cx, cy, h, g⟩)
      · exact .inr ⟨cx, h, g⟩

/-- Rows clipped at the lower edge put no bit on the screen. -/
theorem spriteBit_clip (m : Memory) (a n x0 y0 cx cy : Nat) :
    spriteBit m a (min n (32 - y0)) x0 y0 cx cy = spriteBit m a n x0 y0 cx cy := by
  unfold spriteBit
  have : (cx < 64 ∧ cy < 32 ∧ x0 ≤ cx ∧ cx < x0 + 8 ∧ y0 ≤ cy ∧ cy < y0 + min n (32 - y0)) ↔
      (cx < 64 ∧ cy < 32 ∧ x0 ≤ cx ∧ cx < x0 + 8 ∧ y0 ≤ cy ∧ cy < y0 + n) := by omega
  simp only [this]

theorem startRow_lt (b : Byte) : startRow b < 32 := Nat.mod_lt _ (by decide)

theorem startColumn_lt (b : Byte) : startColumn b < 64 := Nat.mod_lt _ (by decide)

end Sys2Proof.Machine
end

