-- ==== Sys2Proof/Laws/Frame.lean ====
section
/-! SUPPORT. What a slot of a frame can be, what the end of a cycle does, and the fields a frame's events leave alone
(spec/60_exceptions.md R290 to R295). -/

namespace Sys2Proof.Machine

open Sys2Proof

/-! ## The events of a frame start -/

/-- The state the events of the next frame start leave. -/
abbrev State.begun (s : State) : State := s.afterInput.startFrame s.nextInput

theorem State.startFrame_quit (s : State) {f : FrameInput} (h : f.quit = true) :
    s.startFrame f = { s with runState := .halted, left := 0 } := by
  unfold State.startFrame
  rw [if_pos h]

theorem State.startFrame_no_quit (s : State) {f : FrameInput} (h : f.quit = false) :
    s.startFrame f =
      { s with runState := if f.pauseToggle then s.runState.toggled else s.runState, keys := f.keys, left := 0 } := by
  unfold State.startFrame
  rw [if_neg (by simp [h])]

@[simp] theorem State.startFrame_v (s : State) (f : FrameInput) : (s.startFrame f).v = s.v := by
  unfold State.startFrame
  split <;> rfl

@[simp] theorem State.startFrame_i (s : State) (f : FrameInput) : (s.startFrame f).i = s.i := by
  unfold State.startFrame
  split <;> rfl

@[simp] theorem State.startFrame_pc (s : State) (f : FrameInput) : (s.startFrame f).pc = s.pc := by
  unfold State.startFrame
  split <;> rfl

@[simp] theorem State.startFrame_stack (s : State) (f : FrameInput) : (s.startFrame f).stack = s.stack := by
  unfold State.startFrame
  split <;> rfl

@[simp] theorem State.startFrame_sp (s : State) (f : FrameInput) : (s.startFrame f).sp = s.sp := by
  unfold State.startFrame
  split <;> rfl

@[simp] theorem State.startFrame_disp (s : State) (f : FrameInput) : (s.startFrame f).disp = s.disp := by
  unfold State.startFrame
  split <;> rfl

@[simp] theorem State.startFrame_dt (s : State) (f : FrameInput) : (s.startFrame f).dt = s.dt := by
  unfold State.startFrame
  split <;> rfl

@[simp] theorem State.startFrame_st (s : State) (f : FrameInput) : (s.startFrame f).st = s.st := by
  unfold State.startFrame
  split <;> rfl

@[simp] theorem State.startFrame_fault (s : State) (f : FrameInput) : (s.startFrame f).fault = s.fault := by
  unfold State.startFrame
  split <;> rfl

@[simp] theorem State.startFrame_mem (s : State) (f : FrameInput) : (s.startFrame f).mem = s.mem := by
  unfold State.startFrame
  split <;> rfl

@[simp] theorem State.startFrame_k (s : State) (f : FrameInput) : (s.startFrame f).k = s.k := by
  unfold State.startFrame
  split <;> rfl

@[simp] theorem State.startFrame_fx29High (s : State) (f : FrameInput) : (s.startFrame f).fx29High = s.fx29High := by
  unfold State.startFrame
  split <;> rfl

@[simp] theorem State.startFrame_inputs (s : State) (f : FrameInput) : (s.startFrame f).inputs = s.inputs := by
  unfold State.startFrame
  split <;> rfl

@[simp] theorem State.startFrame_rng (s : State) (f : FrameInput) : (s.startFrame f).rng = s.rng := by
  unfold State.startFrame
  split <;> rfl

@[simp] theorem State.startFrame_frames (s : State) (f : FrameInput) : (s.startFrame f).frames = s.frames := by
  unfold State.startFrame
  split <;> rfl

@[simp] theorem State.startFrame_draws (s : State) (f : FrameInput) : (s.startFrame f).draws = s.draws := by
  unfold State.startFrame
  split <;> rfl

@[simp] theorem State.startFrame_presented (s : State) (f : FrameInput) : (s.startFrame f).presented = s.presented := by
  unfold State.startFrame
  split <;> rfl

@[simp] theorem State.startFrame_left (s : State) (f : FrameInput) : (s.startFrame f).left = 0 := by
  unfold State.startFrame
  split <;> rfl

/-! ## What a slot can be -/

/-- Every slot: a Halted core, a cycle inside a batch, or a frame start whose batch is empty, begins, or does not run. -/
theorem State.nextSlot_cases (s : State) :
    (s.runState = .halted ∧ s.nextSlot = .frameOver s) ∨
    (s.runState = .running ∧ s.left ≠ 0 ∧ s.nextSlot = .cycle s) ∨
    ((s.runState ≠ .halted ∧ (s.runState = .running → s.left = 0)) ∧
      ((s.begun.runState = .running ∧ s.k = 0 ∧ s.nextSlot = .frameOver (timerTick s.begun)) ∨
       (s.begun.runState = .running ∧ s.k ≠ 0 ∧ s.nextSlot = .cycle { s.begun with left := s.k }) ∨
       (s.begun.runState ≠ .running ∧ s.nextSlot = .frameOver s.begun))) := by
  by_cases h : s.runState = .halted
  · exact .inl ⟨h, by unfold State.nextSlot; rw [if_pos h]⟩
  · by_cases hr : s.runState = .running ∧ s.left ≠ 0
    · exact .inr (.inl ⟨hr.1, hr.2, by unfold State.nextSlot; rw [if_neg h, if_pos hr]⟩)
    · refine .inr (.inr ⟨⟨h, fun e => by_contra fun g => hr ⟨e, g⟩⟩, ?_⟩)
      unfold State.nextSlot
      rw [if_neg h, if_neg hr]
      by_cases hb : s.begun.runState = .running
      · have hk : s.begun.k = s.k := by simp
        by_cases h0 : s.k = 0
        · exact .inl ⟨hb, h0, by dsimp only; rw [if_pos hb, if_pos (hk.trans h0)]⟩
        · exact .inr (.inl ⟨hb, h0, by dsimp only; rw [if_pos hb, if_neg (hk ▸ h0), hk]⟩)
      · exact .inr (.inr ⟨hb, by dsimp only; rw [if_neg hb]⟩)

/-- Inside the batch of a Running core a step is the next cycle and its end. -/
theorem advance_cycle {s t u : State} (h : s.nextSlot = .cycle t) (hc : cycle t = .next u) :
    advance s = .next u.afterCycle := by
  unfold advance
  rw [h]
  dsimp only
  rw [hc]

theorem advance_frameOver {s t : State} (h : s.nextSlot = .frameOver t) : advance s = .next t.present := by
  unfold advance
  rw [h]

/-- A Halted core only presents its outputs again. -/
theorem advance_halted {s : State} (h : s.runState = .halted) : advance s = .next s.present :=
  advance_frameOver (by unfold State.nextSlot; rw [if_pos h])

/-- Presenting twice is presenting once. -/
theorem State.present_present (s : State) : s.present.present = s.present := rfl

/-! ## Runs of steps, and the cycles of a batch -/

theorem run_zero (s : State) : Host.Core.run core 0 s = .next s := rfl

theorem run_succ {n : Nat} {s t : State} (h : step s = .next t) :
    Host.Core.run core (n + 1) s = Host.Core.run core n t := by
  have e := Host.Core.run.eq_2 core s n
  have h' : core.step s = .next t := h
  rw [h'] at e
  exact e

/-- A fault ends the batch. -/
theorem cycles_succ_halted {n : Nat} {s t : State} (h : cycle s = .next t) (ht : t.runState = .halted) :
    cycles (n + 1) s = .next t := by
  unfold cycles
  rw [h]
  dsimp only
  rw [if_pos ht]

theorem cycles_succ {n : Nat} {s t : State} (h : cycle s = .next t) (ht : t.runState ≠ .halted) :
    cycles (n + 1) s = cycles n t := by
  rw [cycles, h]
  dsimp only
  rw [if_neg ht]

/-! ## The end of a cycle -/

/-- Everything the end of a cycle does: a fault ends the frame without a tick, the last slot ends it with one, and any
other slot only counts. -/
theorem State.afterCycle_cases (s : State) :
    (s.runState = .halted ∧ s.afterCycle = State.present { s with left := 0 }) ∨
    (s.runState ≠ .halted ∧ s.left ≤ 1 ∧ s.afterCycle = State.present (timerTick { s with left := 0 })) ∨
    (s.runState ≠ .halted ∧ 2 ≤ s.left ∧ s.afterCycle = { s with left := s.left - 1 }) := by
  unfold State.afterCycle State.endFrame
  by_cases h : s.runState = .halted
  · exact .inl ⟨h, by rw [if_pos (.inl h), if_pos h]⟩
  · by_cases hl : s.left ≤ 1
    · exact .inr (.inl ⟨h, hl, by rw [if_pos (.inr hl), if_neg h]⟩)
    · exact .inr (.inr ⟨h, by omega, by rw [if_neg (by simp [h, hl])]⟩)

/-- A timer after a tick. -/
theorem timerTick_dt_toNat (s : State) : (timerTick s).dt.toNat = s.dt.toNat - 1 := by
  rw [timerTick_dt]
  split
  · next h => simp [h]
  · next h =>
    have : s.dt.toNat ≠ 0 := fun e => h (BitVec.eq_of_toNat_eq e)
    have := s.dt.isLt
    rw [BitVec.toNat_sub]
    simp
    omega

theorem timerTick_st_toNat (s : State) : (timerTick s).st.toNat = s.st.toNat - 1 := by
  rw [timerTick_st]
  split
  · next h => simp [h]
  · next h =>
    have : s.st.toNat ≠ 0 := fun e => h (BitVec.eq_of_toNat_eq e)
    have := s.st.isLt
    rw [BitVec.toNat_sub]
    simp
    omega

end Sys2Proof.Machine
end

