-- ==== Sys2Proof/Laws/PerInstr.lean ====
section
/-! SUPPORT. Statements made once per instruction. Family EncodedFields: the word of an instruction holds its operands
in the fields of spec/30_encoding.md R91 and the selectors of R96 to R102. -/

namespace Sys2Proof.Laws.EncodedFields

open Sys2Proof

/-- What the fields of an instruction's word are. -/
def Statement : Instr → Prop
  | .cls => encode .cls = 0x00E0#16
  | .ret => encode .ret = 0x00EE#16
  | .jp nnn => fieldOp (encode (.jp nnn)) = 0x1#4 ∧ fieldNNN (encode (.jp nnn)) = nnn
  | .call nnn => fieldOp (encode (.call nnn)) = 0x2#4 ∧ fieldNNN (encode (.call nnn)) = nnn
  | .seImm x nn => fieldOp (encode (.seImm x nn)) = 0x3#4 ∧ fieldX (encode (.seImm x nn)) = x ∧ fieldNN (encode (.seImm x nn)) = nn
  | .sneImm x nn => fieldOp (encode (.sneImm x nn)) = 0x4#4 ∧ fieldX (encode (.sneImm x nn)) = x ∧ fieldNN (encode (.sneImm x nn)) = nn
  | .seReg x y =>
    fieldOp (encode (.seReg x y)) = 0x5#4 ∧ fieldX (encode (.seReg x y)) = x ∧ fieldY (encode (.seReg x y)) = y ∧
      fieldN (encode (.seReg x y)) = 0x0#4
  | .ldImm x nn => fieldOp (encode (.ldImm x nn)) = 0x6#4 ∧ fieldX (encode (.ldImm x nn)) = x ∧ fieldNN (encode (.ldImm x nn)) = nn
  | .addImm x nn => fieldOp (encode (.addImm x nn)) = 0x7#4 ∧ fieldX (encode (.addImm x nn)) = x ∧ fieldNN (encode (.addImm x nn)) = nn
  | .ldReg x y =>
    fieldOp (encode (.ldReg x y)) = 0x8#4 ∧ fieldX (encode (.ldReg x y)) = x ∧ fieldY (encode (.ldReg x y)) = y ∧
      fieldN (encode (.ldReg x y)) = 0x0#4
  | .orReg x y =>
    fieldOp (encode (.orReg x y)) = 0x8#4 ∧ fieldX (encode (.orReg x y)) = x ∧ fieldY (encode (.orReg x y)) = y ∧
      fieldN (encode (.orReg x y)) = 0x1#4
  | .andReg x y =>
    fieldOp (encode (.andReg x y)) = 0x8#4 ∧ fieldX (encode (.andReg x y)) = x ∧ fieldY (encode (.andReg x y)) = y ∧
      fieldN (encode (.andReg x y)) = 0x2#4
  | .xorReg x y =>
    fieldOp (encode (.xorReg x y)) = 0x8#4 ∧ fieldX (encode (.xorReg x y)) = x ∧ fieldY (encode (.xorReg x y)) = y ∧
      fieldN (encode (.xorReg x y)) = 0x3#4
  | .addReg x y =>
    fieldOp (encode (.addReg x y)) = 0x8#4 ∧ fieldX (encode (.addReg x y)) = x ∧ fieldY (encode (.addReg x y)) = y ∧
      fieldN (encode (.addReg x y)) = 0x4#4
  | .sub x y =>
    fieldOp (encode (.sub x y)) = 0x8#4 ∧ fieldX (encode (.sub x y)) = x ∧ fieldY (encode (.sub x y)) = y ∧
      fieldN (encode (.sub x y)) = 0x5#4
  | .shr x y =>
    fieldOp (encode (.shr x y)) = 0x8#4 ∧ fieldX (encode (.shr x y)) = x ∧ fieldY (encode (.shr x y)) = y ∧
      fieldN (encode (.shr x y)) = 0x6#4
  | .subn x y =>
    fieldOp (encode (.subn x y)) = 0x8#4 ∧ fieldX (encode (.subn x y)) = x ∧ fieldY (encode (.subn x y)) = y ∧
      fieldN (encode (.subn x y)) = 0x7#4
  | .shl x y =>
    fieldOp (encode (.shl x y)) = 0x8#4 ∧ fieldX (encode (.shl x y)) = x ∧ fieldY (encode (.shl x y)) = y ∧
      fieldN (encode (.shl x y)) = 0xE#4
  | .sneReg x y n =>
    fieldOp (encode (.sneReg x y n)) = 0x9#4 ∧ fieldX (encode (.sneReg x y n)) = x ∧ fieldY (encode (.sneReg x y n)) = y ∧
      fieldN (encode (.sneReg x y n)) = n
  | .ldI nnn => fieldOp (encode (.ldI nnn)) = 0xA#4 ∧ fieldNNN (encode (.ldI nnn)) = nnn
  | .jpV0 nnn => fieldOp (encode (.jpV0 nnn)) = 0xB#4 ∧ fieldNNN (encode (.jpV0 nnn)) = nnn
  | .rnd x nn => fieldOp (encode (.rnd x nn)) = 0xC#4 ∧ fieldX (encode (.rnd x nn)) = x ∧ fieldNN (encode (.rnd x nn)) = nn
  | .drw x y n =>
    fieldOp (encode (.drw x y n)) = 0xD#4 ∧ fieldX (encode (.drw x y n)) = x ∧ fieldY (encode (.drw x y n)) = y ∧
      fieldN (encode (.drw x y n)) = n
  | .skp x => fieldOp (encode (.skp x)) = 0xE#4 ∧ fieldX (encode (.skp x)) = x ∧ fieldNN (encode (.skp x)) = 0x9E#8
  | .sknp x => fieldOp (encode (.sknp x)) = 0xE#4 ∧ fieldX (encode (.sknp x)) = x ∧ fieldNN (encode (.sknp x)) = 0xA1#8
  | .ldVxDt x => fieldOp (encode (.ldVxDt x)) = 0xF#4 ∧ fieldX (encode (.ldVxDt x)) = x ∧ fieldNN (encode (.ldVxDt x)) = 0x07#8
  | .ldVxK x => fieldOp (encode (.ldVxK x)) = 0xF#4 ∧ fieldX (encode (.ldVxK x)) = x ∧ fieldNN (encode (.ldVxK x)) = 0x0A#8
  | .ldDtVx x => fieldOp (encode (.ldDtVx x)) = 0xF#4 ∧ fieldX (encode (.ldDtVx x)) = x ∧ fieldNN (encode (.ldDtVx x)) = 0x15#8
  | .ldStVx x => fieldOp (encode (.ldStVx x)) = 0xF#4 ∧ fieldX (encode (.ldStVx x)) = x ∧ fieldNN (encode (.ldStVx x)) = 0x18#8
  | .addI x => fieldOp (encode (.addI x)) = 0xF#4 ∧ fieldX (encode (.addI x)) = x ∧ fieldNN (encode (.addI x)) = 0x1E#8
  | .ldF x => fieldOp (encode (.ldF x)) = 0xF#4 ∧ fieldX (encode (.ldF x)) = x ∧ fieldNN (encode (.ldF x)) = 0x29#8
  | .ldB x => fieldOp (encode (.ldB x)) = 0xF#4 ∧ fieldX (encode (.ldB x)) = x ∧ fieldNN (encode (.ldB x)) = 0x33#8
  | .ldMemVx x => fieldOp (encode (.ldMemVx x)) = 0xF#4 ∧ fieldX (encode (.ldMemVx x)) = x ∧ fieldNN (encode (.ldMemVx x)) = 0x55#8
  | .ldVxMem x => fieldOp (encode (.ldVxMem x)) = 0xF#4 ∧ fieldX (encode (.ldVxMem x)) = x ∧ fieldNN (encode (.ldVxMem x)) = 0x65#8
  | .nop w => encode (.nop w) = w

end Sys2Proof.Laws.EncodedFields

open Sys2Proof Sys2Proof.Laws.EncodedFields

theorem Sys2Proof.Laws.EncodedFields.cls : Statement .cls := rfl

theorem Sys2Proof.Laws.EncodedFields.ret : Statement .ret := rfl

theorem Sys2Proof.Laws.EncodedFields.jp (nnn : Addr) : Statement (.jp nnn) := by
  simp [Statement, encode]

theorem Sys2Proof.Laws.EncodedFields.call (nnn : Addr) : Statement (.call nnn) := by
  simp [Statement, encode]

theorem Sys2Proof.Laws.EncodedFields.seImm (x : Nibble) (nn : Byte) : Statement (.seImm x nn) := by
  simp [Statement, encode]

theorem Sys2Proof.Laws.EncodedFields.sneImm (x : Nibble) (nn : Byte) : Statement (.sneImm x nn) := by
  simp [Statement, encode]

theorem Sys2Proof.Laws.EncodedFields.seReg (x y : Nibble) : Statement (.seReg x y) := by
  simp [Statement, encode]

theorem Sys2Proof.Laws.EncodedFields.ldImm (x : Nibble) (nn : Byte) : Statement (.ldImm x nn) := by
  simp [Statement, encode]

theorem Sys2Proof.Laws.EncodedFields.addImm (x : Nibble) (nn : Byte) : Statement (.addImm x nn) := by
  simp [Statement, encode]

theorem Sys2Proof.Laws.EncodedFields.ldReg (x y : Nibble) : Statement (.ldReg x y) := by
  simp [Statement, encode]

theorem Sys2Proof.Laws.EncodedFields.orReg (x y : Nibble) : Statement (.orReg x y) := by
  simp [Statement, encode]

theorem Sys2Proof.Laws.EncodedFields.andReg (x y : Nibble) : Statement (.andReg x y) := by
  simp [Statement, encode]

theorem Sys2Proof.Laws.EncodedFields.xorReg (x y : Nibble) : Statement (.xorReg x y) := by
  simp [Statement, encode]

theorem Sys2Proof.Laws.EncodedFields.addReg (x y : Nibble) : Statement (.addReg x y) := by
  simp [Statement, encode]

theorem Sys2Proof.Laws.EncodedFields.sub (x y : Nibble) : Statement (.sub x y) := by
  simp [Statement, encode]

theorem Sys2Proof.Laws.EncodedFields.shr (x y : Nibble) : Statement (.shr x y) := by
  simp [Statement, encode]

theorem Sys2Proof.Laws.EncodedFields.subn (x y : Nibble) : Statement (.subn x y) := by
  simp [Statement, encode]

theorem Sys2Proof.Laws.EncodedFields.shl (x y : Nibble) : Statement (.shl x y) := by
  simp [Statement, encode]

theorem Sys2Proof.Laws.EncodedFields.sneReg (x y n : Nibble) : Statement (.sneReg x y n) := by
  simp [Statement, encode]

theorem Sys2Proof.Laws.EncodedFields.ldI (nnn : Addr) : Statement (.ldI nnn) := by
  simp [Statement, encode]

theorem Sys2Proof.Laws.EncodedFields.jpV0 (nnn : Addr) : Statement (.jpV0 nnn) := by
  simp [Statement, encode]

theorem Sys2Proof.Laws.EncodedFields.rnd (x : Nibble) (nn : Byte) : Statement (.rnd x nn) := by
  simp [Statement, encode]

theorem Sys2Proof.Laws.EncodedFields.drw (x y n : Nibble) : Statement (.drw x y n) := by
  simp [Statement, encode]

theorem Sys2Proof.Laws.EncodedFields.skp (x : Nibble) : Statement (.skp x) := by
  simp [Statement, encode]

theorem Sys2Proof.Laws.EncodedFields.sknp (x : Nibble) : Statement (.sknp x) := by
  simp [Statement, encode]

theorem Sys2Proof.Laws.EncodedFields.ldVxDt (x : Nibble) : Statement (.ldVxDt x) := by
  simp [Statement, encode]

theorem Sys2Proof.Laws.EncodedFields.ldVxK (x : Nibble) : Statement (.ldVxK x) := by
  simp [Statement, encode]

theorem Sys2Proof.Laws.EncodedFields.ldDtVx (x : Nibble) : Statement (.ldDtVx x) := by
  simp [Statement, encode]

theorem Sys2Proof.Laws.EncodedFields.ldStVx (x : Nibble) : Statement (.ldStVx x) := by
  simp [Statement, encode]

theorem Sys2Proof.Laws.EncodedFields.addI (x : Nibble) : Statement (.addI x) := by
  simp [Statement, encode]

theorem Sys2Proof.Laws.EncodedFields.ldF (x : Nibble) : Statement (.ldF x) := by
  simp [Statement, encode]

theorem Sys2Proof.Laws.EncodedFields.ldB (x : Nibble) : Statement (.ldB x) := by
  simp [Statement, encode]

theorem Sys2Proof.Laws.EncodedFields.ldMemVx (x : Nibble) : Statement (.ldMemVx x) := by
  simp [Statement, encode]

theorem Sys2Proof.Laws.EncodedFields.ldVxMem (x : Nibble) : Statement (.ldVxMem x) := by
  simp [Statement, encode]

theorem Sys2Proof.Laws.EncodedFields.nop (w : Word) : Statement (.nop w) := rfl
end

