-- ==== Sys2Proof/Tests/Slice0.lean ====
section
/-! SUPPORT. The model's own tests: decoding of every constructor from a word written out bit by bit, one step per
instruction with the end states of spec/95_test_vectors.md, and a named witness for the hypotheses of each obligation. -/

namespace Sys2Proof.Tests

set_option Elab.async false

open Sys2Proof Sys2Proof.Machine

/-! ## Helpers -/

/-- The reset state with bytes in memory from an address on. -/
def bytesAt (a : Nat) (bs : List Byte) (s : State) : State := { s with mem := s.mem.writeList a bs }

/-- A register set. -/
def reg (x : Nibble) (b : Byte) (s : State) : State := s.setV x b

/-- The state an answer holds, the given one where it holds none. -/
def stateOf (s : State) : Result → State
  | .next t => t
  | .fault _ => s
  | .refused _ => s

/-- One cycle with word `w` at PC. -/
def ran (w : Word) (s : State) : State := stateOf s (cycle (bytesAt s.pc.toNat [highByte w, lowByte w] s))

/-- The latch a fault of word `w` at 0x200 leaves. -/
def latched (code : FaultCode) (w : Word) (detail : Nat) : Option FaultRecord :=
  some { code := code, pc := 0x200#16, word := some w, detail := detail }

/-- The frame input with some keys down. -/
def keysDown (ks : List Nat) : Vector Bool 16 := Vector.ofFn fun k => decide (k.val ∈ ks)

/-- A Running state inside a batch of two cycles, with a quiet frame lined up. -/
def inBatch : State := { State.reset with k := 2, left := 2, inputs := [FrameInput.quiet], rng := [0xA7#8] }

/-- A Running state at a frame start, with a quiet frame lined up. -/
def atFrame : State := { State.reset with inputs := [FrameInput.quiet] }

/-- The same with a pause toggle, with a quit, with both. -/
def atPauseFrame : State := { State.reset with inputs := [{ FrameInput.quiet with pauseToggle := true }] }
def atQuitFrame : State := { State.reset with inputs := [{ FrameInput.quiet with quit := true }] }
def atPauseAndQuitFrame : State :=
  { State.reset with inputs := [{ FrameInput.quiet with pauseToggle := true, quit := true }] }

/-- A full call stack. -/
def fullStack : State := { State.reset with sp := 12 }

/-- One sprite byte C0 at 0x300, I there. -/
def oneRow : State := bytesAt 0x300 [0xC0#8] { State.reset with i := 0x300#16 }

/-- The same with pixel (0, 0) on. -/
def oneRowOn : State := { oneRow with disp := Display.flip Display.clear 0 0 }

/-! ## Decoding: every constructor from a word written out from its pattern (30_encoding.md R106) -/

theorem test_decode_op0 :
    decode 0b0000000011100000#16 = .cls ∧ decode 0b0000000011101110#16 = .ret ∧
      decode 0b0000000100100011#16 = .nop 0x0123#16 := by decide

theorem test_decode_address_forms :
    decode 0b0001101010111100#16 = .jp 0xABC#12 ∧ decode 0b0010001000001000#16 = .call 0x208#12 ∧
      decode 0b1010001000001010#16 = .ldI 0x20A#12 ∧ decode 0b1011001100000000#16 = .jpV0 0x300#12 := by decide

theorem test_decode_immediate_forms :
    decode 0b0011000101000010#16 = .seImm 1#4 0x42#8 ∧ decode 0b0100000101000010#16 = .sneImm 1#4 0x42#8 ∧
      decode 0b0110000100000010#16 = .ldImm 1#4 2#8 ∧ decode 0b0111000100000101#16 = .addImm 1#4 5#8 ∧
      decode 0b1100001100001111#16 = .rnd 3#4 0x0F#8 := by decide

theorem test_decode_register_moves :
    decode 0b1000000100100000#16 = .ldReg 1#4 2#4 ∧ decode 0b1000000100100001#16 = .orReg 1#4 2#4 ∧
      decode 0b1000000100100010#16 = .andReg 1#4 2#4 ∧ decode 0b1000000100100011#16 = .xorReg 1#4 2#4 := by decide

theorem test_decode_register_arithmetic :
    decode 0b1000000100100100#16 = .addReg 1#4 2#4 ∧ decode 0b1000000100100101#16 = .sub 1#4 2#4 ∧
      decode 0b1000000100100110#16 = .shr 1#4 2#4 ∧ decode 0b1000000100100111#16 = .subn 1#4 2#4 ∧
      decode 0b1000000100101110#16 = .shl 1#4 2#4 ∧ decode 0b1000000100101000#16 = .nop 0x8128#16 := by decide

theorem test_decode_register_skips :
    decode 0b0101000100100000#16 = .seReg 1#4 2#4 ∧ decode 0b0101000100100001#16 = .nop 0x5121#16 ∧
      decode 0b1001000100101111#16 = .sneReg 1#4 2#4 0xF#4 := by decide

theorem test_decode_draw : decode 0b1101000000010101#16 = .drw 0#4 1#4 5#4 := by decide

theorem test_decode_key_skips :
    decode 0b1110010110011110#16 = .skp 5#4 ∧ decode 0b1110010110100001#16 = .sknp 5#4 ∧
      decode 0b1110000000000000#16 = .nop 0xE000#16 := by decide

theorem test_decode_timers_and_key :
    decode 0b1111010000000111#16 = .ldVxDt 4#4 ∧ decode 0b1111001100001010#16 = .ldVxK 3#4 ∧
      decode 0b1111010000010101#16 = .ldDtVx 4#4 ∧ decode 0b1111010000011000#16 = .ldStVx 4#4 := by decide

theorem test_decode_index_and_memory :
    decode 0b1111000100011110#16 = .addI 1#4 ∧ decode 0b1111001000101001#16 = .ldF 2#4 ∧
      decode 0b1111000000110011#16 = .ldB 0#4 ∧ decode 0b1111001001010101#16 = .ldMemVx 2#4 ∧
      decode 0b1111001101100101#16 = .ldVxMem 3#4 ∧ decode 0b1111111111111111#16 = .nop 0xFFFF#16 := by decide

/-- 95_test_vectors.md section 2.1: the fields of 8128 that the record keeps although it is a no-op word. -/
theorem test_decoded_record :
    (decodedRecord 0x912F#16).x = 1#4 ∧ (decodedRecord 0x912F#16).y = 2#4 ∧ (decodedRecord 0x912F#16).n = 0xF#4 ∧
      (decodedRecord 0x912F#16).nn = 0x2F#8 ∧ (decodedRecord 0x912F#16).nnn = 0x12F#12 ∧
      (decodedRecord 0x8128#16).opClass = .nopUnknown := by decide

/-- The byte at the lower address is the high byte (20_memory.md R63). -/
theorem test_decode_bytes :
    decodeBytes [0x61#8, 0x02#8, 0x71#8] = .ok (.ldImm 1#4 2#8, [0x71#8]) ∧ decodeBytes [0x61#8] = .error .truncated := by
  exact ⟨rfl, rfl⟩

theorem test_encode_bytes : encodeBytes (.ldImm 1#4 2#8) = [0x61#8, 0x02#8] := by decide

theorem test_table_words :
    decodeTableWord 16 0x00E0 = some .cls ∧ decodeTableWord 16 0xF265 = some (.ldVxMem 2#4) ∧
      decodeTableWord 16 0 = some (.nop 0#16) := by decide

/-! ## Well-formedness -/

/-- A no-op constructor around a word that means an instruction is refused by the check. -/
theorem test_ill_formed_nop : (Instr.nop 0x00E0#16).wellFormed = false ∧ (Instr.nop 0x8AB4#16).wellFormed = false := by
  decide

theorem test_well_formed : (Instr.nop 0x00E1#16).wellFormed = true ∧ (Instr.shl 0xA#4 0xB#4).wellFormed = true := by
  decide

/-! ## Memory and reset -/

/-- 70_reset_and_hazards.md R322 to R325: glyph 0 at 0x000, the rest of memory from 0x050 on zero. -/
theorem test_reset_memory :
    State.reset.mem.wf = true ∧ State.reset.mem.read 0 = 0xF0#8 ∧ State.reset.mem.read 3 = 0x90#8 ∧
      State.reset.mem.read 0x50 = 0#8 ∧ State.reset.mem.read 0xFFF = 0#8 ∧ defaultFont.length = 80 := by decide

/-- Writing what an unlisted address reads as removes the entry. -/
theorem test_memory_canonical :
    Memory.write (Memory.write [] 0x300 7#8) 0x300 0#8 = [] ∧
      Memory.write (Memory.write [] 0x301 7#8) 0x300 6#8 = [(0x300, 6#8), (0x301, 7#8)] ∧
      Memory.wf [(0x301, 7#8), (0x300, 6#8)] = false ∧ Memory.wf [(0x300, 0#8)] = false := by decide

/-- 70_reset_and_hazards.md R323, R324, R326. -/
theorem test_reset_fields :
    State.reset.pc = 0x200#16 ∧ State.reset.runState = .running ∧ State.reset.fault = none ∧ State.reset.sp.val = 0 ∧
      State.reset.k = 8 := by decide

/-- The placed word is the one the next step runs. -/
theorem test_fetch_word :
    ((stateOf State.reset (step { State.reset.withFetchWord 16 0x6A2B with inputs := [FrameInput.quiet] })).getV 0xA#4) =
      0x2B#8 := by decide +kernel

/-- The same without any input of the host: the placed word is inside an open batch. -/
theorem test_fetch_word_needs_no_input :
    ((stateOf State.reset (step (State.reset.withFetchWord 16 0x6A2B))).getV 0xA#4) = 0x2B#8 := by decide +kernel

/-! ## Fetch (95_test_vectors.md section 2.2) -/

/-- C1: the word at 0xFFE is fetched, PC becomes 0x1000. -/
theorem test_fetch_at_last_word :
    (ran 0x00E0#16 { oneRowOn with pc := 0xFFE#16 }).pc = 0x1000#16 ∧
      (ran 0x00E0#16 { oneRowOn with pc := 0xFFE#16 }).disp = Display.clear := by decide +kernel

/-- C2, C3: the detail is the first address outside. -/
theorem test_fetch_faults :
    (stateOf State.reset (cycle { State.reset with pc := 0xFFF#16 })).fault =
        some { code := .addressOutOfRange, pc := 0xFFF#16, word := none, detail := 0x1000 } ∧
      (stateOf State.reset (cycle { State.reset with pc := 0x1000#16 })).fault =
        some { code := .addressOutOfRange, pc := 0x1000#16, word := none, detail := 0x1000 } := by decide +kernel

/-- C4: an odd PC fetches. -/
theorem test_fetch_odd :
    (ran 0x602A#16 { State.reset with pc := 0x201#16 }).getV 0#4 = 0x2A#8 ∧
      (ran 0x602A#16 { State.reset with pc := 0x201#16 }).pc = 0x203#16 := by decide +kernel

/-! ## Control flow (95_test_vectors.md section 2.3) -/

/-- F1. -/
theorem test_jp : (ran 0x1ABC#16 State.reset).pc = 0xABC#16 := by decide +kernel

/-- F3. -/
theorem test_call :
    (ran 0x2208#16 State.reset).pc = 0x208#16 ∧ (ran 0x2208#16 State.reset).sp.val = 1 ∧
      (ran 0x2208#16 State.reset).stack[0] = 0x202#16 := by decide +kernel

/-- F4. -/
theorem test_call_overflow :
    (ran 0x2208#16 fullStack).fault = latched .stackOverflow 0x2208#16 0x202 ∧ (ran 0x2208#16 fullStack).sp.val = 12 ∧
      (ran 0x2208#16 fullStack).pc = 0x200#16 := by decide +kernel

/-- F5. -/
theorem test_ret :
    (ran 0x00EE#16 { State.reset with sp := 1, stack := State.reset.stack.set 0 0x206#16 }).pc = 0x206#16 ∧
      (ran 0x00EE#16 { State.reset with sp := 1, stack := State.reset.stack.set 0 0x206#16 }).stack[0] = 0x206#16 := by
  decide +kernel

/-- F6. -/
theorem test_ret_underflow :
    (ran 0x00EE#16 State.reset).fault = latched .stackUnderflow 0x00EE#16 0 ∧
      (ran 0x00EE#16 State.reset).runState = .halted := by decide +kernel

/-- F7, F8. -/
theorem test_se_imm :
    (ran 0x3142#16 (reg 1#4 0x42#8 State.reset)).pc = 0x204#16 ∧
      (ran 0x3142#16 (reg 1#4 0x41#8 State.reset)).pc = 0x202#16 := by decide +kernel

/-- F9, F10. -/
theorem test_sne_imm :
    (ran 0x4142#16 (reg 1#4 0x41#8 State.reset)).pc = 0x204#16 ∧
      (ran 0x4142#16 (reg 1#4 0x42#8 State.reset)).pc = 0x202#16 := by decide +kernel

/-- F11, F12. -/
theorem test_se_reg :
    (ran 0x5120#16 (reg 1#4 7#8 (reg 2#4 7#8 State.reset))).pc = 0x204#16 ∧
      (ran 0x5121#16 (reg 1#4 7#8 (reg 2#4 7#8 State.reset))).pc = 0x202#16 := by decide +kernel

/-- F13, F14. -/
theorem test_sne_reg :
    (ran 0x912F#16 (reg 1#4 1#8 (reg 2#4 2#8 State.reset))).pc = 0x204#16 ∧
      (ran 0x9120#16 (reg 1#4 2#8 (reg 2#4 2#8 State.reset))).pc = 0x202#16 := by decide +kernel

/-- F16, F17: the sum is masked. -/
theorem test_jp_v0 :
    (ran 0xBFFF#16 (reg 0#4 0xFF#8 State.reset)).pc = 0x0FE#16 ∧
      (ran 0xBF01#16 (reg 0#4 0xFF#8 State.reset)).pc = 0#16 := by decide +kernel

/-- 40_cycle.md R136 on FFFF. -/
theorem test_nop : ran 0xFFFF#16 State.reset = (bytesAt 0x200 [0xFF#8, 0xFF#8] State.reset).setPc 0x202#16 := by
  decide +kernel

/-! ## ALU (95_test_vectors.md section 2.4) -/

/-- A1. -/
theorem test_ld_imm : (ran 0x6AFF#16 State.reset).getV 0xA#4 = 0xFF#8 := by decide +kernel

/-- A2: the sum wraps and VF stays. -/
theorem test_add_imm :
    (ran 0x7105#16 (reg 1#4 0xFE#8 (reg 0xF#4 0x55#8 State.reset))).getV 1#4 = 3#8 ∧
      (ran 0x7105#16 (reg 1#4 0xFE#8 (reg 0xF#4 0x55#8 State.reset))).getV 0xF#4 = 0x55#8 := by decide +kernel

/-- A3. -/
theorem test_ld_reg : (ran 0x8120#16 (reg 2#4 9#8 State.reset)).getV 1#4 = 9#8 := by decide +kernel

/-- A4. -/
theorem test_or :
    (ran 0x8121#16 (reg 1#4 0xF0#8 (reg 2#4 0x0F#8 (reg 0xF#4 7#8 State.reset)))).getV 1#4 = 0xFF#8 ∧
      (ran 0x8121#16 (reg 1#4 0xF0#8 (reg 2#4 0x0F#8 (reg 0xF#4 7#8 State.reset)))).getV 0xF#4 = 7#8 := by decide +kernel

/-- A5. -/
theorem test_and : (ran 0x8122#16 (reg 1#4 0xF0#8 (reg 2#4 0x3C#8 State.reset))).getV 1#4 = 0x30#8 := by decide +kernel

/-- A6. -/
theorem test_xor : (ran 0x8123#16 (reg 1#4 0xFF#8 (reg 2#4 0x0F#8 State.reset))).getV 1#4 = 0xF0#8 := by decide +kernel

/-- A8, A9: 255 is no carry, 256 is. -/
theorem test_add_carry :
    (ran 0x8124#16 (reg 1#4 0xFE#8 (reg 2#4 1#8 State.reset))).getV 0xF#4 = 0#8 ∧
      (ran 0x8124#16 (reg 1#4 0xFF#8 (reg 2#4 1#8 State.reset))).getV 0xF#4 = 1#8 := by decide +kernel

/-- A10, A11: with VF as Vx the sum stands. -/
theorem test_add_into_vf :
    (ran 0x8F14#16 (reg 0xF#4 0x80#8 (reg 1#4 0x90#8 State.reset))).getV 0xF#4 = 0x10#8 ∧
      (ran 0x8FF4#16 (reg 0xF#4 0x80#8 State.reset)).getV 0xF#4 = 0#8 := by decide +kernel

/-- A12, A13: equal operands do not borrow. -/
theorem test_sub :
    (ran 0x8125#16 (reg 1#4 5#8 (reg 2#4 5#8 State.reset))).getV 0xF#4 = 1#8 ∧
      (ran 0x8125#16 (reg 1#4 1#8 (reg 2#4 2#8 State.reset))).getV 1#4 = 0xFF#8 ∧
      (ran 0x8125#16 (reg 1#4 1#8 (reg 2#4 2#8 State.reset))).getV 0xF#4 = 0#8 := by decide +kernel

/-- A14. -/
theorem test_sub_into_vf :
    (ran 0x8F15#16 (reg 0xF#4 3#8 (reg 1#4 5#8 State.reset))).getV 0xF#4 = 0xFE#8 := by decide +kernel

/-- A16: VF is named by y and not read. -/
theorem test_shr :
    (ran 0x81F6#16 (reg 1#4 2#8 (reg 0xF#4 0xFF#8 State.reset))).getV 1#4 = 1#8 ∧
      (ran 0x81F6#16 (reg 1#4 2#8 (reg 0xF#4 0xFF#8 State.reset))).getV 0xF#4 = 0#8 := by decide +kernel

/-- A17. -/
theorem test_shr_of_vf : (ran 0x8F06#16 (reg 0xF#4 3#8 State.reset)).getV 0xF#4 = 1#8 := by decide +kernel

/-- A18, A20. -/
theorem test_subn :
    (ran 0x8127#16 (reg 1#4 5#8 (reg 2#4 3#8 State.reset))).getV 1#4 = 0xFE#8 ∧
      (ran 0x8127#16 (reg 1#4 5#8 (reg 2#4 3#8 State.reset))).getV 0xF#4 = 0#8 ∧
      (ran 0x8127#16 (reg 1#4 3#8 (reg 2#4 5#8 State.reset))).getV 1#4 = 2#8 := by decide +kernel

/-- A21. -/
theorem test_shl :
    (ran 0x810E#16 (reg 1#4 0x81#8 State.reset)).getV 1#4 = 2#8 ∧
      (ran 0x810E#16 (reg 1#4 0x81#8 State.reset)).getV 0xF#4 = 1#8 := by decide +kernel

/-- A22, A23: the draw is taken even with nn = 0. -/
theorem test_rnd :
    (ran 0xC30F#16 inBatch).getV 3#4 = 7#8 ∧ (ran 0xC300#16 inBatch).getV 3#4 = 0#8 ∧
      (ran 0xC300#16 inBatch).rng = [] := by decide +kernel

/-! ## Index register and memory (95_test_vectors.md section 2.5) -/

/-- M1. -/
theorem test_ld_i : (ran 0xA20A#16 State.reset).i = 0x20A#16 := by decide +kernel

/-- M3, M4. -/
theorem test_add_i :
    (ran 0xF11E#16 (reg 1#4 1#8 { State.reset with i := 0xFFF#16 })).i = 0x1000#16 ∧
      (ran 0xF11E#16 (reg 1#4 1#8 { State.reset with i := 0xFFFF#16 })).i = 0#16 := by decide +kernel

/-- M6, M7. -/
theorem test_ld_f :
    (ran 0xF229#16 (reg 2#4 0x0A#8 State.reset)).i = 0x032#16 ∧
      (ran 0xF229#16 (reg 2#4 0xFF#8 State.reset)).i = 0x4FB#16 := by decide +kernel

/-- M9. -/
theorem test_ld_b :
    (ran 0xF033#16 (reg 0#4 255#8 { State.reset with i := 0x300#16 })).mem.read 0x300 = 2#8 ∧
      (ran 0xF033#16 (reg 0#4 255#8 { State.reset with i := 0x300#16 })).mem.read 0x301 = 5#8 ∧
      (ran 0xF033#16 (reg 0#4 255#8 { State.reset with i := 0x300#16 })).mem.read 0x302 = 5#8 := by decide +kernel

/-- M11: nothing is stored. -/
theorem test_ld_b_fault :
    (ran 0xF033#16 (reg 0#4 7#8 { State.reset with i := 0xFFE#16 })).fault =
        latched .addressOutOfRange 0xF033#16 0x1000 ∧
      (ran 0xF033#16 (reg 0#4 7#8 { State.reset with i := 0xFFE#16 })).mem = [(0x200, 0xF0#8), (0x201, 0x33#8)] := by
  decide +kernel

/-- M12: I is unchanged and Vx is included. -/
theorem test_ld_mem :
    (ran 0xF255#16 (reg 0#4 1#8 (reg 1#4 2#8 (reg 2#4 3#8 { State.reset with i := 0x300#16 })))).mem =
        [(0x200, 0xF2#8), (0x201, 0x55#8), (0x300, 1#8), (0x301, 2#8), (0x302, 3#8)] ∧
      (ran 0xF255#16 (reg 0#4 1#8 { State.reset with i := 0x300#16 })).i = 0x300#16 := by decide +kernel

/-- M14. -/
theorem test_ld_mem_fault :
    (ran 0xFF55#16 { State.reset with i := 0xFF1#16 }).fault = latched .addressOutOfRange 0xFF55#16 0x1000 := by
  decide +kernel

/-- M16. -/
theorem test_ld_from_mem :
    (ran 0xF465#16 State.reset).getV 0#4 = 0xF0#8 ∧ (ran 0xF465#16 State.reset).getV 1#4 = 0x90#8 ∧
      (ran 0xF465#16 State.reset).getV 4#4 = 0xF0#8 ∧ (ran 0xF465#16 State.reset).getV 5#4 = 0#8 := by decide +kernel

/-- M17. -/
theorem test_ld_from_mem_fault :
    (ran 0xF065#16 { State.reset with i := 0x1000#16 }).fault = latched .addressOutOfRange 0xF065#16 0x1000 := by
  decide +kernel

/-! ## Display (95_test_vectors.md section 2.6) -/

/-- G1. -/
theorem test_cls :
    (ran 0x00E0#16 (reg 0xF#4 1#8 oneRowOn)).disp = Display.clear ∧
      (ran 0x00E0#16 (reg 0xF#4 1#8 oneRowOn)).getV 0xF#4 = 1#8 := by decide +kernel

/-- G8. -/
theorem test_drw_collision :
    Display.pixel (ran 0xD011#16 oneRowOn).disp 0 0 = false ∧ Display.pixel (ran 0xD011#16 oneRowOn).disp 1 0 = true ∧
      (ran 0xD011#16 oneRowOn).getV 0xF#4 = 1#8 := by decide +kernel

/-- G3 and G5: wrap on entry, and a clipped row is not read. -/
theorem test_drw_wraps_and_clips :
    Display.pixel (ran 0xD011#16 (reg 0#4 68#8 (reg 1#4 33#8 oneRow))).disp 4 1 = true ∧
      Display.pixel (ran 0xD012#16 (reg 1#4 31#8 (bytesAt 0xFFF [0x80#8] { State.reset with i := 0xFFF#16 }))).disp 0 31 =
        true := by decide +kernel

/-! ## Keypad and timers (95_test_vectors.md section 2.7) -/

/-- K1, K2. -/
theorem test_skp :
    (ran 0xE59E#16 (reg 5#4 3#8 { State.reset with keys := keysDown [3] })).pc = 0x204#16 ∧
      (ran 0xE59E#16 (reg 5#4 3#8 State.reset)).pc = 0x202#16 := by decide +kernel

/-- K5. -/
theorem test_skp_fault :
    (ran 0xE59E#16 (reg 5#4 0x10#8 State.reset)).fault = latched .keyIndexOutOfRange 0xE59E#16 0x10 := by decide +kernel

/-- K3, K4. -/
theorem test_sknp :
    (ran 0xE5A1#16 (reg 5#4 3#8 State.reset)).pc = 0x204#16 ∧
      (ran 0xE5A1#16 (reg 5#4 3#8 { State.reset with keys := keysDown [3] })).pc = 0x202#16 := by decide +kernel

/-- K6, K7. -/
theorem test_await_key :
    (ran 0xF30A#16 { State.reset with pc := 0x240#16 }).pc = 0x240#16 ∧
      (ran 0xF30A#16 { State.reset with pc := 0x240#16, keys := keysDown [7, 9] }).getV 3#4 = 7#8 ∧
      (ran 0xF30A#16 { State.reset with pc := 0x240#16, keys := keysDown [7, 9] }).pc = 0x242#16 := by decide +kernel

/-- K8. -/
theorem test_ld_from_dt : (ran 0xF407#16 { State.reset with dt := 0x3C#8 }).getV 4#4 = 0x3C#8 := by decide +kernel

/-- K9. -/
theorem test_ld_dt : (ran 0xF415#16 (reg 4#4 0x3C#8 State.reset)).dt = 0x3C#8 := by decide +kernel

/-- K10. -/
theorem test_ld_st : (ran 0xF418#16 (reg 4#4 5#8 State.reset)).st = 5#8 := by decide +kernel

/-- T1, by steps: the last cycle of the batch ticks, and the sound signal is presented. -/
theorem test_tick_at_batch_end :
    (stateOf inBatch (step { inBatch with left := 1, dt := 2#8, st := 1#8 })).dt = 1#8 ∧
      (stateOf inBatch (step { inBatch with left := 1, dt := 2#8, st := 1#8 })).st = 0#8 ∧
      (stateOf inBatch (step { inBatch with dt := 2#8 })).dt = 2#8 := by decide +kernel

/-- T5: K = 0 still ticks. -/
theorem test_empty_batch_ticks :
    (stateOf atFrame (step { atFrame with k := 0, dt := 5#8 })).dt = 4#8 ∧
      (stateOf atFrame (step { atFrame with k := 0, dt := 5#8 })).pc = 0x200#16 := by decide +kernel

/-- P6: a pause, and a quit with a pause. -/
theorem test_pause_and_quit :
    (stateOf atPauseFrame (step atPauseFrame)).runState = .paused ∧
      (stateOf atPauseAndQuitFrame (step atPauseAndQuitFrame)).runState = .halted := by decide +kernel

/-- The observer sees the cycle the next slot runs, and none in a Halted core (60_exceptions.md R312). -/
theorem test_observer :
    (bytesAt 0x200 [0x61#8, 0x02#8] inBatch).observerEvent =
        some { pc0 := 0x200#16, word := 0x6102#16, record := decodedRecord 0x6102#16 } ∧
      State.observerEvent { inBatch with runState := .halted } = none := by decide +kernel

/-! ## Witnesses: a state and operands that meet the hypotheses of each obligation, clause by clause -/

theorem witness_encode_then_decode :
    Instr.cls.wellFormed = true ∧ (Instr.nop 0xFFFF#16).wellFormed = true ∧
      (Instr.drw 0xF#4 0xF#4 0xF#4).wellFormed = true := by decide

theorem witness_decoder_follows_opcode_map :
    (⟨.shl, 0x800E, 0xF00F⟩ : OpcodeRow) ∈ opcodeTable ∧
      (⟨.shl, 0x800E, 0xF00F⟩ : OpcodeRow).matches 0x8ABE#16 = true ∧
      (⟨.shl, 0x800E, 0xF00F⟩ : OpcodeRow).matches 0x8ABF#16 = false ∧
      (∀ r ∈ opcodeTable, r.matches 0x8ABF#16 = false) := by decide +kernel

/-- Inside a batch, with the last word of memory as the instruction. -/
theorem witness_step_runs_inside_batch :
    inBatch.runState = .running ∧ inBatch.left ≠ 0 ∧ ({ inBatch with pc := 0xFFE#16 } : State).pc.toNat + 1 < 4096 ∧
      decode (wordOfBytes (inBatch.mem.read 0xFFE) (inBatch.mem.read 0xFFF)) = .nop 0#16 := by decide

/-- At a frame start, Running, and Paused with a pause toggle. -/
theorem witness_step_runs_at_frame_start :
    (atFrame.runState = .running ∧ atFrame.left = 0 ∧ (atFrame.afterInput.startFrame atFrame.nextInput).runState = .running ∧
      atFrame.k ≠ 0 ∧ atFrame.pc.toNat + 1 < 4096) ∧
    (State.startFrame { State.reset with runState := .paused } { FrameInput.quiet with pauseToggle := true }).runState =
      .running := by decide

theorem witness_fetch_outside :
    4096 ≤ (0xFFF#16).toNat + 1 ∧ ¬4096 ≤ (0xFFF#16).toNat ∧ 4096 ≤ (0x1000#16).toNat ∧
      4096 ≤ ({ State.reset with pc := 0xFFFF#16 } : State).pc.toNat + 1 := by decide

/-- The highest register pair dumped at the highest address, and the digits at the highest address. -/
theorem witness_stores_seen_by_fetch :
    (∃ t, exec (.ldMemVx 0xF#4) { State.reset with i := 0xFF0#16 } = .next t ∧
      Unfaulted { State.reset with i := 0xFF0#16 } t ∧ t.runState = .running ∧ 14 + 1 ≤ (0xF#4).toNat ∧
      ({ t with pc := 0xFFE#16 } : State).mem = t.mem ∧
      ({ t with pc := 0xFFE#16 } : State).pc.toNat = State.base { State.reset with i := 0xFF0#16 } + 14) ∧
    (∃ t, exec (.ldB 0#4) { State.reset with i := 0xFFD#16 } = .next t ∧
      Unfaulted { State.reset with i := 0xFFD#16 } t ∧ t.runState = .running ∧
      ({ t with pc := 0xFFD#16 } : State).mem = t.mem ∧ ({ t with pc := 0xFFD#16 } : State).pc = 0xFFD#16) :=
  ⟨⟨_, rfl, ⟨rfl, rfl⟩, rfl, by decide, rfl, rfl⟩, ⟨_, rfl, ⟨rfl, rfl⟩, rfl, rfl, rfl⟩⟩

theorem witness_unknown_word :
    (decode 0x0000#16).opClass = .nopUnknown ∧ (decode 0x5121#16).opClass = .nopUnknown ∧
      (decode 0xFFFF#16).opClass = .nopUnknown := by decide

/-- The call stack empty, with one place left, and full. -/
theorem witness_call :
    State.reset.sp.val < 12 ∧ ({ State.reset with sp := 11 } : State).sp.val < 12 ∧ fullStack.sp.val = 12 := by decide

/-- One entry, twelve entries, none. -/
theorem witness_ret :
    ({ State.reset with sp := 1 } : State).sp.val = 0 + 1 ∧ fullStack.sp.val = 11 + 1 ∧ State.reset.sp.val = 0 := by decide

theorem witness_call_then_return : ({ State.reset with sp := 11 } : State).sp.val < 12 := by decide

theorem witness_skip_on_registers : (1#4 : Nibble) ≠ 0#4 ∧ (0xF#4 : Nibble) ≠ 0#4 := by decide

/-- The flag clause of ADD, SUB, SUBN, SHR and SHL: Vx other than VF, with 255 and with 256 as the sum. -/
theorem witness_flag_clause :
    (0xE#4 : Nibble) ≠ vf ∧ ¬255 < (0xFE#8).toNat + (1#8).toNat ∧ 255 < (0xFF#8).toNat + (1#8).toNat := by decide

/-- A byte lined up, and none. -/
theorem witness_random_draw :
    inBatch.rng = 0xA7#8 :: [] ∧ State.reset.rng = [] ∧
      Config.randByte State.reset.draws = Config.randByte State.reset.draws := ⟨rfl, rfl, rfl⟩

/-- Vx 15, Vx 16 with the formula, Vx 16 with the free draw. -/
theorem witness_font_address :
    ((reg 2#4 15#8 State.reset).getV 2#4).toNat ≤ 15 ∧ (reg 2#4 16#8 State.reset).fx29High = .formula ∧
      15 < ((reg 2#4 16#8 State.reset).getV 2#4).toNat ∧
      (reg 2#4 16#8 { State.reset with fx29High := .draw }).fx29High = .draw ∧
      Config.fontAddress 0 = Config.fontAddress 0 := ⟨by decide, by decide, by decide, by decide, rfl⟩

theorem witness_bcd : ({ State.reset with i := 0xFFD#16 } : State).i.toNat + 2 < 4096 := by decide

theorem witness_dump_and_load :
    ({ State.reset with i := 0xFF0#16 } : State).i.toNat + (0xF#4).toNat < 4096 ∧ (0#4).toNat ≤ (0xF#4).toNat ∧
      (0xF#4).toNat ≤ (0xF#4).toNat := by decide

theorem witness_dump_then_load :
    ∃ t, exec (.ldMemVx 0xF#4) { State.reset with i := 0xFF0#16 } = .next t ∧ t.runState ≠ .halted ∧
      ({ State.reset with i := 0xFF0#16, mem := t.mem } : State).mem = t.mem := ⟨_, rfl, by decide, rfl⟩

/-- The first address that is too high for each of the four instructions. -/
theorem witness_access_outside :
    4096 ≤ ({ State.reset with i := 0xFFE#16 } : State).i.toNat + 2 ∧
      4096 ≤ ({ State.reset with i := 0xFF1#16 } : State).i.toNat + (0xF#4).toNat ∧
      ¬State.spriteReadable { State.reset with i := 0xFFF#16 } 1#4 2#4 :=
  ⟨by decide, by decide, fun h => absurd (show (2 = 0 ∨ 4095 + 2 ≤ 4096) from h) (by decide)⟩

/-- No row with I beyond the memory, a row at the last address, and sprites with and without a collision. -/
theorem witness_draw :
    State.spriteReadable { State.reset with i := 0xFFFF#16 } 1#4 0#4 ∧
      State.spriteReadable { State.reset with i := 0xFFF#16 } 1#4 1#4 ∧
      (oneRowOn.spriteBitAt 0#4 1#4 1#4 0 0 = true ∧ Display.pixel oneRowOn.disp 0 0 = true) ∧
      (∀ cx cy, oneRow.spriteBitAt 0#4 1#4 1#4 cx cy = true → Display.pixel oneRow.disp cx cy = false) :=
  ⟨.inl rfl, .inr (by decide), by decide +kernel, fun cx cy _ => Display.pixel_clear cx cy⟩

/-- Coordinate registers other than VF; the first draw turns a pixel on. -/
theorem witness_draw_twice_collides :
    (0#4 : Nibble) ≠ vf ∧ (1#4 : Nibble) ≠ vf ∧ oneRow.spriteReadable 1#4 1#4 ∧
      ∃ t, exec (.drw 0#4 1#4 1#4) oneRow = .next t ∧ Display.pixel oneRow.disp 0 0 = false ∧
        Display.pixel t.disp 0 0 = true :=
  ⟨by decide, by decide, .inr (by decide), _, rfl, by decide +kernel, by decide +kernel⟩

/-- The first draw turns no pixel on: a sprite of no rows. -/
theorem witness_draw_twice_no_collision :
    ∃ t, exec (.drw 0#4 1#4 0#4) oneRow = .next t ∧
      ∀ cx cy, Display.pixel oneRow.disp cx cy = false → Display.pixel t.disp cx cy = false :=
  ⟨_, rfl, fun _ _ h => h⟩

/-- Key 0, key 15, and the first index that is no key. -/
theorem witness_key_skips :
    (State.reset.getV 5#4).toNat = 0 ∧ ((reg 5#4 15#8 State.reset).getV 5#4).toNat = 15 ∧
      16 ≤ ((reg 5#4 16#8 State.reset).getV 5#4).toNat := by decide

/-- The lowest key is 0, is 15, and no key is down. -/
theorem witness_await_key :
    (keysDown [0, 15])[0] = true ∧
      ((keysDown [15])[15] = true ∧ ∀ j, (g : j < 15) → (keysDown [15])[j] = false) ∧
      (∀ k, (h : k < 16) → State.reset.keys[k] = false) := by decide +kernel

/-- An instruction that answers without a fault and one that answers with one. -/
theorem witness_instruction_answers :
    (∃ t, exec (.addReg 0xF#4 0xF#4) inBatch = .next t) ∧ Instr.faultOf inBatch (.addReg 0xF#4 0xF#4) = none ∧
      (∃ t, exec .ret inBatch = .next t) ∧ Instr.faultOf inBatch .ret = some (.stackUnderflow, 0) ∧
      Instr.faultOf { inBatch with i := 0xFFF#16 } (.drw 0#4 1#4 2#4) = some (.addressOutOfRange, 0x1000) :=
  ⟨⟨_, rfl⟩, rfl, ⟨_, rfl⟩, rfl, by decide⟩

/-- A latched fault in a Halted core, which steps. -/
theorem witness_halted :
    ∃ s t : State, step s = .next t ∧ s.runState = .halted ∧
      s.fault = some { code := .stackUnderflow, pc := 0x200#16, word := some 0x00EE#16, detail := 0 } :=
  ⟨{ inBatch with
      runState := .halted, left := 0,
      fault := some { code := .stackUnderflow, pc := 0x200#16, word := some 0x00EE#16, detail := 0 } }, _, rfl, rfl, rfl⟩

/-- Frame starts: Running, Paused, an empty batch, a batch of one; and a Halted core. -/
theorem witness_frame :
    (atFrame.runState ≠ .halted ∧ atFrame.left = 0 ∧ atFrame.inputs = FrameInput.quiet :: []) ∧
      ({ atFrame with runState := .paused } : State).runState ≠ .halted ∧
      (max ({ atFrame with k := 0 } : State).k 1 = 1 ∧ max ({ atFrame with k := 1 } : State).k 1 = 1) ∧
      ({ atFrame with runState := .halted } : State).runState = .halted := by decide

/-- A return with an empty stack inside a batch. -/
theorem witness_fault_ends_batch :
    (bytesAt 0x200 [0x00#8, 0xEE#8] inBatch).runState = .running ∧ (bytesAt 0x200 [0x00#8, 0xEE#8] inBatch).left ≠ 0 ∧
      ∃ u, cycle (bytesAt 0x200 [0x00#8, 0xEE#8] inBatch) = .next u ∧ u.runState = .halted :=
  ⟨by decide, by decide, _, rfl, rfl⟩

/-- A slot before the last and the last one, with a word that writes no timer; and the two words that write one. -/
theorem witness_timers_in_batch :
    (inBatch.runState = .running ∧ 2 ≤ inBatch.left ∧ inBatch.fetch = .ok 0#16 ∧ ∃ u, cycle inBatch = .next u) ∧
      (∃ u, cycle { inBatch with left := 1 } = .next u ∧ u.runState = .running) ∧ (decode 0#16).opClass ≠ .ldDtVx ∧
      (decode 0#16).opClass ≠ .ldStVx ∧ (decode 0xF415#16).opClass = .ldDtVx ∧ (decode 0xF418#16).opClass = .ldStVx :=
  ⟨⟨by decide, by decide, rfl, _, rfl⟩, ⟨_, rfl, rfl⟩, by decide, by decide, by decide, by decide⟩

/-- A step inside a batch and a step at a frame start. -/
theorem witness_keys_latched :
    (inBatch.runState = .running ∧ inBatch.left ≠ 0 ∧ ∃ t, step inBatch = .next t) ∧
      (atFrame.runState ≠ .halted ∧ atFrame.left = 0 ∧ atFrame.nextInput.quit = false ∧ ∃ t, step atFrame = .next t) :=
  ⟨⟨by decide, by decide, _, rfl⟩, by decide, by decide, by decide, _, rfl⟩

/-- Paused with a quiet frame, and Running with a pause toggle. -/
theorem witness_paused_frame :
    (∃ f, ({ atFrame with runState := .paused } : State).inputs = f :: [] ∧ f.quit = false ∧ f.pauseToggle = false) ∧
      (∃ f, atPauseFrame.inputs = f :: [] ∧ f.quit = false ∧ f.pauseToggle = true) ∧ atPauseFrame.runState = .running ∧
      atPauseFrame.left = 0 := ⟨⟨_, rfl, rfl, rfl⟩, ⟨_, rfl, rfl, rfl⟩, by decide, by decide⟩

/-- A quit, alone and beside a pause toggle. -/
theorem witness_quit :
    (∃ f, atQuitFrame.inputs = f :: [] ∧ f.quit = true) ∧ (∃ f, atPauseAndQuitFrame.inputs = f :: [] ∧ f.quit = true) ∧
      atQuitFrame.runState ≠ .halted ∧ atQuitFrame.left = 0 := ⟨⟨_, rfl, rfl⟩, ⟨_, rfl, rfl⟩, by decide, by decide⟩

/-- Running without a toggle, Paused with one. -/
theorem witness_empty_batch :
    (({ atFrame with k := 0 } : State).left = 0 ∧ atFrame.nextInput.quit = false ∧
      (atFrame.nextInput.pauseToggle = true ↔ atFrame.runState = .paused)) ∧
    (({ atPauseFrame with k := 0, runState := .paused } : State).left = 0 ∧ atPauseFrame.nextInput.quit = false ∧
      (atPauseFrame.nextInput.pauseToggle = true ↔ ({ atPauseFrame with runState := .paused } : State).runState = .paused)) :=
  by decide

/-- A slot that runs a cycle, and slots that run none: Halted, Paused, an empty batch. -/
theorem witness_slots :
    inBatch.nextSlot = .cycle inBatch ∧
      State.nextSlot { inBatch with runState := .halted } = .frameOver { inBatch with runState := .halted } ∧
      (∃ u, State.nextSlot { atFrame with runState := .paused } = .frameOver u) ∧
      (∃ u, State.nextSlot { atFrame with k := 0 } = .frameOver u) := ⟨rfl, rfl, ⟨_, rfl⟩, ⟨_, rfl⟩⟩

/-- A step that stays inside the batch and one that ends the frame. -/
theorem witness_outputs :
    (∃ t, step inBatch = .next t ∧ inBatch.runState = .running ∧ 2 ≤ inBatch.left ∧ t.runState = .running) ∧
      (∃ t, step { inBatch with left := 1 } = .next t ∧ t.left = 0) :=
  ⟨⟨_, rfl, rfl, by decide, rfl⟩, ⟨_, rfl, rfl⟩⟩

/-- The empty image and the longest one; the shortest that is too long; TICK_RATE = 0. -/
theorem witness_load :
    Config.default.tickRate ≠ 0 ∧ ([] : List Byte).length ≤ 3584 ∧ (List.replicate 3584 0xFF#8).length ≤ 3584 ∧
      3584 < (List.replicate 3585 0xFF#8).length ∧ 
      ({ Config.default with tickRate := 0 } : Sys2Proof.Config).tickRate = 0 := by
  refine ⟨by decide, by decide, ?_, ?_, rfl⟩ <;> rw [List.length_replicate]
  decide

theorem witness_loaded_state : ∃ s, load (some [0x12#8, 0x00#8]) Config.default = .next s := ⟨_, rfl⟩

/-- The reset state meets the invariant and steps. -/
theorem witness_step_keeps_invariant : State.Inv atFrame ∧ ∃ t, step atFrame = .next t :=
  ⟨{ memCanonical := rfl
     slotsLeft := by decide
     closedBatch := fun _ => rfl
     faultHalts := fun h => absurd rfl h
     faultPc := fun _ h => nomatch h
     haltPresented := fun h => nomatch h
     pcBound := by decide
     stackBound := by decide }, _, rfl⟩

end Sys2Proof.Tests
end

namespace Sys2Proof.Machine

open Sys2Proof

/-! ## What a slot of a frame answers (40_cycle.md R140) -/

/-- A slot runs a cycle only of a Running core, and only with a cycle of the batch left. -/
theorem State.nextSlot_cycle_running {s u : State} (h : s.nextSlot = .cycle u) :
    u.runState = .running ∧ u.left ≠ 0 := by
  rcases s.nextSlot_cases with ⟨-, hs⟩ | ⟨hrun, hleft, hs⟩ | ⟨-, frameStart⟩
  · cases hs.symm.trans h
  · cases hs.symm.trans h
    exact ⟨hrun, hleft⟩
  · rcases frameStart with ⟨-, -, hs⟩ | ⟨hrun, hk, hs⟩ | ⟨-, hs⟩
    · cases hs.symm.trans h
    · cases hs.symm.trans h
      exact ⟨hrun, hk⟩
    · cases hs.symm.trans h

/-- A slot that runs no cycle leaves a Halted core alone, ticks the timers of an empty batch, or ends a frame that did
not open a batch. -/
theorem State.nextSlot_frameOver_cases {s u : State} (h : s.nextSlot = .frameOver u) :
    u = s ∨ u = timerTick s.begun ∨ u = s.begun := by
  rcases s.nextSlot_cases with ⟨-, hs⟩ | ⟨-, -, hs⟩ | ⟨-, frameStart⟩
  · cases hs.symm.trans h
    exact .inl rfl
  · cases hs.symm.trans h
  · rcases frameStart with ⟨-, -, hs⟩ | ⟨-, -, hs⟩ | ⟨-, hs⟩
    · cases hs.symm.trans h
      exact .inr (.inl rfl)
    · cases hs.symm.trans h
    · cases hs.symm.trans h
      exact .inr (.inr rfl)

/-- Settles O48: the cases of a slot give where its cycle runs; a slot without one changes only what the events of a
frame start, the timer tick and the presenting change. -/
theorem cyclesOnlyInARunningBatch : Obligations.CyclesOnlyInARunningBatch := by
  intro s u
  refine ⟨State.nextSlot_cycle_running, fun h => ⟨u.present, advance_frameOver h, ?_⟩⟩
  rcases State.nextSlot_frameOver_cases h with rfl | rfl | rfl <;> simp

/-! ## The empty Execute (40_cycle.md R136) -/

theorem exec_nop (w : Word) (s : State) : exec (.nop w) s = .next s.advancePc := rfl

theorem eq_nop_of_opClass {i : Instr} (h : i.opClass = .nopUnknown) : ∃ w, i = .nop w := by
  cases i with
  | nop w => exact ⟨w, rfl⟩
  | _ => cases h

theorem unfaulted_advancePc (s : State) : Unfaulted s s.advancePc :=
  ⟨State.advancePc_runState s, State.advancePc_fault s⟩

theorem keeps_advancePc (s : State) : Keeps Changes.pcOnly s s.advancePc := by
  constructor <;> simp

/-- Settles O8: an instruction of class NOP_UNKNOWN is a no-op word, whose effect is the advance of PC alone. -/
theorem unknownWordOnlyAdvancesPc : Obligations.UnknownWordOnlyAdvancesPc := by
  intro w s hclass
  obtain ⟨w', hnop⟩ := eq_nop_of_opClass hclass
  rw [hnop]
  exact ⟨s.advancePc, exec_nop w' s, State.advancePc_pc s, unfaulted_advancePc s, keeps_advancePc s⟩

end Sys2Proof.Machine

namespace Sys2Proof.Machine

open Sys2Proof

/-! ## Immediate load and add (42_alu.md R181, R182) -/

theorem decode_wordXNN_ldImm (x : Nibble) (nn : Byte) : decode (wordXNN 0x6#4 x nn) = .ldImm x nn := by
  simp [decode]

theorem decode_wordXNN_addImm (x : Nibble) (nn : Byte) : decode (wordXNN 0x7#4 x nn) = .addImm x nn := by
  simp [decode]

theorem exec_ldImm (x : Nibble) (nn : Byte) (s : State) : exec (.ldImm x nn) s = .next (s.advancePc.setV x nn) := rfl

theorem exec_addImm (x : Nibble) (nn : Byte) (s : State) :
    exec (.addImm x nn) s = .next (s.advancePc.setV x (s.getV x + nn)) := rfl

theorem advancePc_setV_pc (s : State) (x : Nibble) (b : Byte) : (s.advancePc.setV x b).pc = s.pc + 2#16 := by
  rw [State.setV_pc, State.advancePc_pc]

theorem unfaulted_advancePc_setV (s : State) (x : Nibble) (b : Byte) : Unfaulted s (s.advancePc.setV x b) :=
  unfaulted_advancePc s

/-- A register that the frame of Vx speaks of is another register than Vx. -/
theorem ne_of_reg_v_eq_false {x z : Nibble} (h : (Changes.reg x).v z = false) : z ≠ x :=
  beq_eq_false_iff_ne.mp h

/-- An instruction that ends by writing Vx keeps everything else, VF included. -/
theorem keeps_advancePc_setV (s : State) (x : Nibble) (b : Byte) :
    Keeps (Changes.reg x) s (s.advancePc.setV x b) where
  v _ hz := State.getV_setV_ne s.advancePc b (ne_of_reg_v_eq_false hz)
  __ := keeps_advancePc s

/-- Settles O15: both instructions advance PC and write Vx, so they have one frame; addition of bytes is modulo 256. -/
theorem immediateLoadAndAdd : Obligations.ImmediateLoadAndAdd := by
  intro x nn s
  refine ⟨⟨decode_wordXNN_ldImm x nn, _, exec_ldImm x nn s, State.getV_setV_same _ x nn, ?_⟩,
    decode_wordXNN_addImm x nn, _, exec_addImm x nn s, ?sum, ?_⟩
  case sum => rw [State.getV_setV_same, BitVec.toNat_add]
  all_goals exact ⟨advancePc_setV_pc s x _, unfaulted_advancePc_setV s x _, keeps_advancePc_setV s x _⟩

end Sys2Proof.Machine

namespace Sys2Proof.Machine

open Sys2Proof

/-! ## The index register (43_index_memory.md R210) -/

theorem decode_wordNNN_ldI (nnn : Addr) : decode (wordNNN 0xA#4 nnn) = .ldI nnn := by
  simp [decode]

theorem exec_ldI (nnn : Addr) (s : State) : exec (.ldI nnn) s = .next (s.advancePc.setI (zextAddr nnn)) := rfl

theorem zextAddr_toNat (nnn : Addr) : (zextAddr nnn).toNat = nnn.toNat :=
  BitVec.toNat_setWidth_of_le (by decide)

theorem advancePc_setI_pc (s : State) (w : Word) : (s.advancePc.setI w).pc = s.pc + 2#16 := by
  rw [State.setI_pc, State.advancePc_pc]

theorem unfaulted_advancePc_setI (s : State) (w : Word) : Unfaulted s (s.advancePc.setI w) :=
  unfaulted_advancePc s

/-- An instruction that ends by writing I keeps everything else: `Changes.index` excuses I alone. -/
theorem keeps_advancePc_setI (s : State) (w : Word) : Keeps Changes.index s (s.advancePc.setI w) where
  i hi := Bool.noConfusion hi
  __ := keeps_advancePc s

/-- Settles O21: the instruction advances PC and writes the zero-extended field to I. -/
theorem loadIndex : Obligations.LoadIndex := by
  intro nnn s
  have index : (s.advancePc.setI (zextAddr nnn)).i.toNat = nnn.toNat := by
    rw [State.setI_i, zextAddr_toNat]
  exact ⟨decode_wordNNN_ldI nnn, _, exec_ldI nnn s, index, advancePc_setI_pc s _, unfaulted_advancePc_setI s _,
    keeps_advancePc_setI s _⟩

end Sys2Proof.Machine

namespace Sys2Proof.Machine

open Sys2Proof

/-! ## What a cycle does to the timers, Keys and the position in the batch (70_reset_and_hazards.md R332, R333) -/

/-- `t` has the Keys and the position in the batch of `s`, and its timers up to a write by instruction `i`. -/
structure KeepsFrameState (i : Instr) (s t : State) : Prop where
  keys : t.keys = s.keys
  left : t.left = s.left
  dt : i.opClass ≠ .ldDtVx → t.dt = s.dt
  st : i.opClass ≠ .ldStVx → t.st = s.st

theorem keepsFrameState_takeFault (i : Instr) (s : State) (w : Option Word) (e : Raise) :
    KeepsFrameState i s (s.takeFault w e) := by
  constructor <;> simp

/-- An instruction that can fault keeps the frame's state if its own effect does: fault entry keeps it. -/
theorem keepsFrameState_of_attempt {i : Instr} {s done t : State} {raised : Option Raise}
    (h : attempt i s raised done = .next t) (hdone : KeepsFrameState i s done) : KeepsFrameState i s t := by
  rcases attempt_cases h with ⟨-, rfl⟩ | ⟨e, -, rfl⟩
  · exact hdone
  · exact keepsFrameState_takeFault i s _ e

/-- No instruction writes Keys or the position in the batch, and the two timer loads alone write a timer. -/
theorem exec_keepsFrameState {i : Instr} {s t : State} (h : exec i s = .next t) : KeepsFrameState i s t := by
  cases i with
  | ldDtVx x =>
    obtain rfl := Host.Outcome.next.inj h
    exact { keys := rfl, left := rfl, dt := fun other => absurd rfl other, st := fun _ => rfl }
  | ldStVx x =>
    obtain rfl := Host.Outcome.next.inj h
    exact { keys := rfl, left := rfl, dt := fun _ => rfl, st := fun other => absurd rfl other }
  | ret | call _ | drw _ _ _ | skp _ | sknp _ | ldB _ | ldMemVx _ | ldVxMem _ =>
    refine keepsFrameState_of_attempt h ?_
    constructor <;> simp
  | ldF _ | ldVxK _ =>
    simp only [exec, execLdF, execLdVxK] at h
    split at h <;>
    · obtain rfl := Host.Outcome.next.inj h
      constructor <;> simp
  | _ =>
    obtain rfl := Host.Outcome.next.inj h
    constructor <;> simp

theorem cycle_eq_exec {s : State} {w : Word} (h : s.fetch = .ok w) : cycle s = exec (decode w) s := by
  unfold cycle
  rw [h]

theorem cycle_eq_takeFault {s : State} {e : Raise} (h : s.fetch = .error e) : cycle s = .next (s.takeFault none e) := by
  unfold cycle
  rw [h]

theorem cycle_keepsFrameState {s u : State} {w : Word} (hfetch : s.fetch = .ok w) (h : cycle s = .next u) :
    KeepsFrameState (decode w) s u :=
  exec_keepsFrameState (cycle_eq_exec hfetch ▸ h)

theorem cycle_keys {s u : State} (h : cycle s = .next u) : u.keys = s.keys := by
  cases hfetch : s.fetch with
  | error e =>
    rw [cycle_eq_takeFault hfetch] at h
    obtain rfl := Host.Outcome.next.inj h
    exact State.takeFault_keys s none e
  | ok w => exact (cycle_keepsFrameState hfetch h).keys

/-! ## The end of a cycle -/

@[simp] theorem State.afterCycle_keys (s : State) : s.afterCycle.keys = s.keys := by
  rcases s.afterCycle_cases with ⟨-, h⟩ | ⟨-, -, h⟩ | ⟨-, -, h⟩ <;> simp [h]

/-- Before the last slot of a batch no timer ticks, whether the batch goes on or a fault ends it. -/
theorem State.afterCycle_timers_of_two_le_left {s : State} (hleft : 2 ≤ s.left) :
    s.afterCycle.dt = s.dt ∧ s.afterCycle.st = s.st := by
  rcases s.afterCycle_cases with ⟨-, h⟩ | ⟨-, hlast, -⟩ | ⟨-, -, h⟩
  · simp [h]
  · omega
  · simp [h]

/-- The last slot of a batch that took no fault ticks both timers. -/
theorem State.afterCycle_timers_of_last {s : State} (hrun : s.runState ≠ .halted) (hleft : s.left ≤ 1) :
    s.afterCycle.dt.toNat = s.dt.toNat - 1 ∧ s.afterCycle.st.toNat = s.st.toNat - 1 := by
  rcases s.afterCycle_cases with ⟨hhalted, -⟩ | ⟨-, -, h⟩ | ⟨-, hmore, -⟩
  · exact absurd hhalted hrun
  · rw [h, State.present_dt, State.present_st]
    exact ⟨timerTick_dt_toNat _, timerTick_st_toNat _⟩
  · omega

theorem State.nextSlot_in_batch {s : State} (hrun : s.runState = .running) (hleft : s.left ≠ 0) :
    s.nextSlot = .cycle s := by
  rcases s.nextSlot_cases with ⟨hhalted, -⟩ | ⟨-, -, h⟩ | ⟨⟨-, hstart⟩, -⟩
  · cases hrun.symm.trans hhalted
  · exact h
  · exact absurd (hstart hrun) hleft

/-- Settles O43: the timers of a cycle by `exec_keepsFrameState`, those of the step by the end of the cycle, which
finds the position in the batch as the cycle found it. -/
theorem timersChangeInBatchByWritesOnly : Obligations.TimersChangeInBatchByWritesOnly := by
  intro s u w hrun hleft hfetch hcycle
  have kept := cycle_keepsFrameState hfetch hcycle
  refine ⟨kept.dt, kept.st, u.afterCycle, advance_cycle (State.nextSlot_in_batch hrun hleft) hcycle, ?_, ?_⟩
  · intro hmore
    exact State.afterCycle_timers_of_two_le_left (kept.left ▸ hmore)
  · intro hlast hrunning
    exact State.afterCycle_timers_of_last (by simp [hrunning]) (kept.left.trans hlast).le

/-! ## Keys over a step -/

/-- The state a slot starts from: the events of a frame start have happened in it. -/
def Slot.state : Slot → State
  | .cycle s => s
  | .frameOver s => s

/-- Once the events of a frame start have happened, the rest of a step leaves Keys alone. -/
theorem step_keys {s t : State} (h : step s = .next t) : t.keys = s.nextSlot.state.keys := by
  change advance s = .next t at h
  cases hslot : s.nextSlot with
  | frameOver u =>
    rw [advance_frameOver hslot] at h
    obtain rfl := Host.Outcome.next.inj h
    exact State.present_keys u
  | cycle u =>
    cases hcycle : cycle u with
    | next v =>
      rw [advance_cycle hslot hcycle] at h
      obtain rfl := Host.Outcome.next.inj h
      exact (State.afterCycle_keys v).trans (cycle_keys hcycle)
    | fault r => simp [advance, hslot, hcycle] at h
    | refused r => simp [advance, hslot, hcycle] at h

theorem State.begun_keys {s : State} (hquit : s.nextInput.quit = false) : s.begun.keys = s.nextInput.keys := by
  rw [State.begun, State.startFrame_no_quit _ hquit]

/-- At a frame start the slot has the Keys its events leave. -/
theorem State.nextSlot_keys_at_frame_start {s : State} (hhalted : s.runState ≠ .halted)
    (hstart : s.runState = .running → s.left = 0) : s.nextSlot.state.keys = s.begun.keys := by
  rcases s.nextSlot_cases with ⟨h, -⟩ | ⟨hrun, hleft, -⟩ | ⟨-, ⟨-, -, h⟩ | ⟨-, -, h⟩ | ⟨-, h⟩⟩
  · exact absurd h hhalted
  · exact absurd (hstart hrun) hleft
  all_goals rw [h]; rfl

/-- Settles O44: a step keeps the Keys of its slot, which are those before it inside a batch and on a Halted core, and
the latched ones at a frame start. -/
theorem keysAreLatchedAtFrameStart : Obligations.KeysAreLatchedAtFrameStart := by
  refine ⟨?_, ?_, ?_⟩
  · intro s t hrun hleft h
    rw [step_keys h, State.nextSlot_in_batch hrun hleft]
    rfl
  · intro s t hhalted hstart hquit h
    rw [step_keys h, State.nextSlot_keys_at_frame_start hhalted hstart, State.begun_keys hquit]
  · intro s t hhalted h
    obtain rfl := Host.Outcome.next.inj ((advance_halted hhalted).symm.trans h)
    exact State.present_keys s

end Sys2Proof.Machine

namespace Sys2Proof

/-! ## Words with given fields (30_encoding.md R91, R92) -/

theorem wordNNN_of_fields {w : Word} {c : Nibble} (hop : fieldOp w = c) : wordNNN c (fieldNNN w) = w :=
  hop ▸ wordNNN_fields w

theorem wordXNN_of_fields {w : Word} {c : Nibble} {nn : Byte} (hop : fieldOp w = c) (hnn : fieldNN w = nn) :
    wordXNN c (fieldX w) nn = w :=
  hop ▸ hnn ▸ wordXNN_fields w

theorem wordXYN_of_fields {w : Word} {c n : Nibble} (hop : fieldOp w = c) (hn : fieldN w = n) :
    wordXYN c (fieldX w) (fieldY w) n = w :=
  hop ▸ hn ▸ wordXYN_fields w

/-! ## The encoder takes back what each level of the decoder gives (30_encoding.md R96 to R102) -/

theorem encode_decodeOp0 (w : Word) : encode (decodeOp0 w) = w := by
  unfold decodeOp0
  split_ifs with hcls hret
  · exact hcls.symm
  · exact hret.symm
  · rfl

theorem encode_decodeOp5 {w : Word} (hop : fieldOp w = 0x5#4) : encode (decodeOp5 w) = w := by
  unfold decodeOp5
  split_ifs with hn
  · exact wordXYN_of_fields hop hn
  · rfl

theorem encode_decodeOp8 {w : Word} (hop : fieldOp w = 0x8#4) : encode (decodeOp8 w) = w := by
  unfold decodeOp8
  dsimp only
  repeat' split
  case isFalse => rfl
  all_goals exact wordXYN_of_fields hop ‹_›

theorem encode_decodeOpE {w : Word} (hop : fieldOp w = 0xE#4) : encode (decodeOpE w) = w := by
  unfold decodeOpE
  dsimp only
  repeat' split
  case isFalse => rfl
  all_goals exact wordXNN_of_fields hop ‹_›

theorem encode_decodeOpF {w : Word} (hop : fieldOp w = 0xF#4) : encode (decodeOpF w) = w := by
  unfold decodeOpF
  dsimp only
  repeat' split
  case isFalse => rfl
  all_goals exact wordXNN_of_fields hop ‹_›

/-- A property of what every op decodes to is a property of the decoder (30_encoding.md R96). -/
theorem decode_cases {P : Instr → Prop} (w : Word)
    (op0 : fieldOp w = 0x0#4 → P (decodeOp0 w)) (op1 : fieldOp w = 0x1#4 → P (.jp (fieldNNN w)))
    (op2 : fieldOp w = 0x2#4 → P (.call (fieldNNN w))) (op3 : fieldOp w = 0x3#4 → P (.seImm (fieldX w) (fieldNN w)))
    (op4 : fieldOp w = 0x4#4 → P (.sneImm (fieldX w) (fieldNN w))) (op5 : fieldOp w = 0x5#4 → P (decodeOp5 w))
    (op6 : fieldOp w = 0x6#4 → P (.ldImm (fieldX w) (fieldNN w)))
    (op7 : fieldOp w = 0x7#4 → P (.addImm (fieldX w) (fieldNN w))) (op8 : fieldOp w = 0x8#4 → P (decodeOp8 w))
    (op9 : fieldOp w = 0x9#4 → P (.sneReg (fieldX w) (fieldY w) (fieldN w)))
    (opA : fieldOp w = 0xA#4 → P (.ldI (fieldNNN w))) (opB : fieldOp w = 0xB#4 → P (.jpV0 (fieldNNN w)))
    (opC : fieldOp w = 0xC#4 → P (.rnd (fieldX w) (fieldNN w)))
    (opD : fieldOp w = 0xD#4 → P (.drw (fieldX w) (fieldY w) (fieldN w))) (opE : fieldOp w = 0xE#4 → P (decodeOpE w))
    (opF : fieldOp w = 0xF#4 → P (decodeOpF w)) : P (decode w) :=
  iteInduction op0 fun _ => iteInduction op1 fun _ => iteInduction op2 fun _ => iteInduction op3 fun _ =>
  iteInduction op4 fun _ => iteInduction op5 fun _ => iteInduction op6 fun _ => iteInduction op7 fun _ =>
  iteInduction op8 fun _ => iteInduction op9 fun _ => iteInduction opA fun _ => iteInduction opB fun _ =>
  iteInduction opC fun _ => iteInduction opD fun _ => iteInduction opE fun _ => opF (by bv_omega)

/-- The encoder takes back the decoder, whatever the word (30_encoding.md R103). -/
theorem encode_decode (w : Word) : encode (decode w) = w := by
  apply decode_cases (P := fun i => encode i = w) w
  case op0 => exact fun _ => encode_decodeOp0 w
  case op5 => exact encode_decodeOp5
  case op8 => exact encode_decodeOp8
  case opE => exact encode_decodeOpE
  case opF => exact encode_decodeOpF
  case op1 | op2 | opA | opB => exact wordNNN_of_fields
  case op9 | opD => exact fun hop => wordXYN_of_fields hop rfl
  all_goals exact fun hop => wordXNN_of_fields hop rfl

/-! ## A row of the opcode map and the fields it keeps (30_encoding.md R106) -/

theorem OpcodeRow.matches_iff (r : OpcodeRow) (w : Word) : r.matches w = true ↔ w &&& r.mask = r.bits := beq_iff_eq

theorem fieldOp_and (v w : Word) : fieldOp (v &&& w) = fieldOp v &&& fieldOp w := BitVec.extractLsb'_and

theorem fieldN_and (v w : Word) : fieldN (v &&& w) = fieldN v &&& fieldN w := BitVec.extractLsb'_and

theorem fieldNN_and (v w : Word) : fieldNN (v &&& w) = fieldNN v &&& fieldNN w := BitVec.extractLsb'_and

theorem decode_of_op5 {w : Word} (h : fieldOp w = 0x5#4) : decode w = decodeOp5 w := by simp [decode, h]

theorem decode_of_op8 {w : Word} (h : fieldOp w = 0x8#4) : decode w = decodeOp8 w := by simp [decode, h]

theorem decode_of_opE {w : Word} (h : fieldOp w = 0xE#4) : decode w = decodeOpE w := by simp [decode, h]

theorem decode_of_opF {w : Word} (h : fieldOp w = 0xF#4) : decode w = decodeOpF w := by simp [decode, h]

/-- Two words that agree in every field the decoder looks at for their op decode to one class. -/
theorem opClass_decode_congr {v w : Word} (hop : fieldOp v = fieldOp w) (h0 : fieldOp w = 0x0#4 → v = w)
    (hn : fieldOp w = 0x5#4 ∨ fieldOp w = 0x8#4 → fieldN v = fieldN w)
    (hnn : fieldOp w = 0xE#4 ∨ fieldOp w = 0xF#4 → fieldNN v = fieldNN w) :
    (decode v).opClass = (decode w).opClass := by
  apply decode_cases (P := fun i => (decode v).opClass = i.opClass) w
  case op0 => exact fun h => by simp [decode, h0 h, h]
  case op5 =>
    intro h
    simp only [decode_of_op5 (hop.trans h), decodeOp5, hn (.inl h), apply_ite Instr.opClass]
    rfl
  case op8 =>
    intro h
    simp only [decode_of_op8 (hop.trans h), decodeOp8, hn (.inr h), apply_ite Instr.opClass]
    rfl
  case opE =>
    intro h
    simp only [decode_of_opE (hop.trans h), decodeOpE, hnn (.inl h), apply_ite Instr.opClass]
    rfl
  case opF =>
    intro h
    simp only [decode_of_opF (hop.trans h), decodeOpF, hnn (.inr h), apply_ite Instr.opClass]
    rfl
  all_goals exact fun h => by simp [decode, hop, h, Instr.opClass]

/-- The mask of a row keeps every field the decoder looks at for the row's op. -/
theorem mask_keeps_decoded_fields : ∀ r ∈ opcodeTable, fieldOp r.mask = 0xF#4 ∧
    (fieldOp r.bits = 0x0#4 → r.mask = 0xFFFF#16) ∧
    (fieldOp r.bits = 0x5#4 ∨ fieldOp r.bits = 0x8#4 → fieldN r.mask = 0xF#4) ∧
    (fieldOp r.bits = 0xE#4 ∨ fieldOp r.bits = 0xF#4 → fieldNN r.mask = 0xFF#8) := by decide

theorem opClass_decode_bits : ∀ r ∈ opcodeTable, (decode r.bits).opClass = r.opClass := by decide

theorem opClass_decode_of_matches {r : OpcodeRow} {w : Word} (hr : r ∈ opcodeTable) (h : r.matches w = true) :
    (decode w).opClass = r.opClass := by
  rw [OpcodeRow.matches_iff] at h
  obtain ⟨keepsOp, keepsAll, keepsN, keepsNN⟩ := mask_keeps_decoded_fields r hr
  have hop : fieldOp w = fieldOp r.bits := by
    rw [← h, fieldOp_and, keepsOp, and_allOnes_nibble]
  rw [opClass_decode_congr hop ?_ ?_ ?_, opClass_decode_bits r hr]
  · intro h0
    rw [← h, keepsAll h0]
    exact BitVec.and_allOnes.symm
  · intro hn
    rw [← h, fieldN_and, keepsN hn, and_allOnes_nibble]
  · intro hnn
    rw [← h, fieldNN_and, keepsNN hnn]
    exact BitVec.and_allOnes.symm

/-! ## The row of a class -/

/-- The row of the opcode map for a class; none for the no-op class. -/
def rowOf (c : OpClass) : Option OpcodeRow := opcodeTable.find? fun r => r.opClass = c

theorem rowOf_opClass : ∀ r ∈ opcodeTable, rowOf r.opClass = some r := by decide

theorem rowOf_ne_none {c : OpClass} (h : c ≠ .nopUnknown) : rowOf c ≠ none := by
  cases c with
  | nopUnknown => exact absurd rfl h
  | _ => decide

theorem and_F000 (w : Word) : w &&& 0xF000 = wordXYN (fieldOp w) 0#4 0#4 0#4 := (mask_op w _).2 rfl

theorem and_F00F (w : Word) : w &&& 0xF00F = wordXYN (fieldOp w) 0#4 0#4 (fieldN w) := (mask_op_n w _ _).2 ⟨rfl, rfl⟩

theorem and_F0FF (w : Word) : w &&& 0xF0FF = wordXNN (fieldOp w) 0#4 (fieldNN w) := (mask_op_nn w _ _).2 ⟨rfl, rfl⟩

/-- The word of an instruction matches the row of its class. -/
theorem matches_encode {r : OpcodeRow} (i : Instr) (h : rowOf i.opClass = some r) : r.matches (encode i) = true := by
  cases i with
  | nop w => cases h
  | _ =>
    obtain rfl := Option.some.inj h
    simp only [OpcodeRow.matches_iff, and_F000, and_F00F, and_F0FF, encode, fieldOp_wordNNN, fieldOp_wordXNN,
      fieldOp_wordXYN, fieldN_wordXYN, fieldNN_wordXNN]
    decide

theorem matches_iff_opClass_decode {r : OpcodeRow} (hr : r ∈ opcodeTable) (w : Word) :
    r.matches w = true ↔ (decode w).opClass = r.opClass := by
  refine ⟨opClass_decode_of_matches hr, fun h => ?_⟩
  have hrow : rowOf (decode w).opClass = some r := h ▸ rowOf_opClass r hr
  simpa only [encode_decode] using matches_encode (decode w) hrow

theorem opClass_ne_nopUnknown : ∀ r ∈ opcodeTable, r.opClass ≠ .nopUnknown := by decide

theorem opClass_decode_eq_nopUnknown_iff (w : Word) :
    (decode w).opClass = .nopUnknown ↔ ∀ r ∈ opcodeTable, r.matches w = false := by
  constructor
  · intro h r hr
    rw [Bool.eq_false_iff, ne_eq, matches_iff_opClass_decode hr, h]
    exact (opClass_ne_nopUnknown r hr).symm
  · intro h
    by_contra hclass
    obtain ⟨r, hrow⟩ := Option.ne_none_iff_exists'.1 (rowOf_ne_none hclass)
    have hmatch : r.matches w = true := by simpa only [encode_decode] using matches_encode (decode w) hrow
    rw [h r (List.mem_of_find?_eq_some hrow)] at hmatch
    cases hmatch

/-- Settles O3: a row's mask keeps all the decoder looks at, and the word of an instruction matches its class's row. -/
theorem decoderFollowsOpcodeMap : Obligations.DecoderFollowsOpcodeMap := fun w =>
  ⟨fun _ hr => matches_iff_opClass_decode hr w, opClass_decode_eq_nopUnknown_iff w⟩

/-! ## Well-formed instructions and words (30_encoding.md R103, R104) -/

theorem wellFormed_nop (w : Word) : (Instr.nop w).wellFormed = true ↔ ∀ r ∈ opcodeTable, r.matches w = false := by
  simp only [Instr.wellFormed, List.all_eq_true, Bool.not_eq_true']

/-- A no-op is the decoding of its own word alone. -/
theorem eq_of_decode_eq_nop {v w : Word} (h : decode v = .nop w) : w = v := by
  simpa only [h, encode] using encode_decode v

theorem wellFormed_decode (w : Word) : (decode w).wellFormed = true := by
  cases h : decode w with
  | nop v =>
    obtain rfl := eq_of_decode_eq_nop h
    rw [wellFormed_nop, ← opClass_decode_eq_nopUnknown_iff, h]
    rfl
  | _ => rfl

/-- Settles O2: the encoder takes every decoding back, and a no-op is decoded only of a word that matches no row. -/
theorem decodeThenEncode : Obligations.DecodeThenEncode := fun w => ⟨wellFormed_decode w, encode_decode w⟩

theorem decode_nop {w : Word} (h : (Instr.nop w).wellFormed = true) : decode w = .nop w := by
  have hclass := (opClass_decode_eq_nopUnknown_iff w).2 ((wellFormed_nop w).1 h)
  obtain ⟨v, hv⟩ := Machine.eq_nop_of_opClass hclass
  rw [hv, eq_of_decode_eq_nop hv]

/-- Settles O1: the fields of each pattern choose the constructor again; the word of a well-formed no-op matches no
row, so it decodes to a no-op. -/
theorem encodeThenDecode : Obligations.EncodeThenDecode := by
  intro i hi
  cases i with
  | cls | ret => rfl
  | nop w => exact decode_nop hi
  | seReg | ldReg | orReg | andReg | xorReg | addReg | sub | shr | subn | shl =>
    simp [encode, decode, decodeOp5, decodeOp8]
  | skp | sknp | ldVxDt | ldVxK | ldDtVx | ldStVx | addI | ldF | ldB | ldMemVx | ldVxMem =>
    simp [encode, decode, decodeOpE, decodeOpF]
  | _ => simp [encode, decode]

/-- Settles O4: twelve closed words. -/
theorem sampleWordsDecode : Obligations.SampleWordsDecode := by
  unfold Obligations.SampleWordsDecode
  decide

end Sys2Proof

namespace Sys2Proof.Machine

open Sys2Proof

/-! ## One rule of frames for each operation of the state: what it writes must be excused -/

section

variable {c : Changes} {s t : State}

theorem Keeps.refl (c : Changes) (s : State) : Keeps c s s := by
  constructor <;> intros <;> simp

theorem Keeps.setPc (h : Keeps c s t) (w : Word) : Keeps c s (t.setPc w) where
  __ := h

theorem Keeps.setI (h : Keeps c s t) (hc : c.i = true) (w : Word) : Keeps c s (t.setI w) where
  i hi := by simp [hc] at hi
  __ := h

theorem Keeps.setDt (h : Keeps c s t) (hc : c.dt = true) (b : Byte) : Keeps c s (t.setDt b) where
  dt hdt := by simp [hc] at hdt
  __ := h

theorem Keeps.setSt (h : Keeps c s t) (hc : c.st = true) (b : Byte) : Keeps c s (t.setSt b) where
  st hst := by simp [hc] at hst
  __ := h

theorem Keeps.setDisp (h : Keeps c s t) (hc : c.disp = true) (d : Display) : Keeps c s (t.setDisp d) where
  disp hdisp := by simp [hc] at hdisp
  __ := h

theorem Keeps.setV {x : Nibble} (h : Keeps c s t) (hc : c.v x = true) (b : Byte) : Keeps c s (t.setV x b) where
  v z hz := by
    have hne : z ≠ x := by
      rintro rfl
      simp [hc] at hz
    rw [State.getV_setV_ne t b hne, h.v z hz]
  __ := h

theorem Keeps.writeByte {a : Nat} (h : Keeps c s t) (hc : c.mem a = true) (b : Byte) : Keeps c s (t.writeByte a b) where
  mem a' ha' := by
    have hne : a' ≠ a := by
      rintro rfl
      simp [hc] at ha'
    rw [State.writeByte_mem, Memory.read_write_other _ _ _ _ hne, h.mem a' ha']
  __ := h

theorem Keeps.push (h : Keeps c s t) (hc : c.stack = true) (w : Word) : Keeps c s (t.push w) := by
  unfold State.push
  split
  · exact { h with stack := fun hs => by simp [hc] at hs }
  · exact h

theorem Keeps.dropTop (h : Keeps c s t) (hc : c.stack = true) : Keeps c s t.dropTop where
  stack hs := by simp [hc] at hs
  __ := h

theorem Keeps.afterRandByte (h : Keeps c s t) (hr : c.rng = true) (hd : c.draws = true) :
    Keeps c s t.afterRandByte where
  rng hrng := by simp [hr] at hrng
  draws hdraws := by simp [hd] at hdraws
  __ := h

theorem Keeps.afterFontAddress (h : Keeps c s t) (hd : c.draws = true) : Keeps c s t.afterFontAddress where
  draws hdraws := by simp [hd] at hdraws
  __ := h

theorem Keeps.storeRegs {a n : Nat} (h : Keeps c s t) (hc : ∀ j < n, c.mem (a + j) = true) :
    Keeps c s (t.storeRegs a n) := by
  induction n with
  | zero => exact h
  | succ n ih => exact (ih fun j hj => hc j (by omega)).writeByte (hc n (by omega)) _

theorem Keeps.loadRegs {a n : Nat} (h : Keeps c s t) (hc : ∀ j < n, c.v (BitVec.ofNat 4 j) = true) :
    Keeps c s (t.loadRegs a n) := by
  induction n with
  | zero => exact h
  | succ n ih => exact (ih fun j hj => hc j (by omega)).setV (hc n (by omega)) _

theorem Keeps.takeFault (h : Keeps c s t) (w : Option Word) (e : Raise) : Keeps c s (t.takeFault w e) where
  __ := h

end

/-! ## What an instruction does: the check it makes first, and its effect where the check raises nothing
(40_cycle.md R137) -/

/-- The fault an instruction raises, before any write. -/
def Instr.raised (s : State) : Instr → Option Raise
  | .ret => s.popCheck
  | .call _ => s.pushCheck s.advancePc.pc
  | .drw _ y n => addressCheck s.base (rowsOnScreen n (startRow (s.getV y)))
  | .ldB _ => addressCheck s.base 3
  | .ldMemVx x | .ldVxMem x => addressCheck s.base (regCount x)
  | .skp x | .sknp x => keyCheck (s.getV x)
  | _ => none

/-- The state an instruction that raises nothing leaves. -/
def Instr.effect (s : State) : Instr → State
  | .cls => s.advancePc.setDisp Display.clear
  | .ret => s.advancePc.dropTop.setPc s.top
  | .jp nnn => s.advancePc.setPc (zextAddr nnn)
  | .call nnn => (s.advancePc.push s.advancePc.pc).setPc (zextAddr nnn)
  | .seImm x nn => s.skipIf (s.getV x == nn)
  | .sneImm x nn => s.skipIf (s.getV x != nn)
  | .seReg x y => s.skipIf (s.getV x == s.getV y)
  | .ldImm x nn => s.advancePc.setV x nn
  | .addImm x nn => s.advancePc.setV x (s.getV x + nn)
  | .ldReg x y => s.advancePc.setV x (s.getV y)
  | .orReg x y => s.advancePc.setV x (s.getV x ||| s.getV y)
  | .andReg x y => s.advancePc.setV x (s.getV x &&& s.getV y)
  | .xorReg x y => s.advancePc.setV x (s.getV x ^^^ s.getV y)
  | .addReg x y => s.advancePc.writeFlagThenResult x (carryOut (s.getV x) (s.getV y)) (s.getV x + s.getV y)
  | .sub x y => s.advancePc.writeFlagThenResult x (noBorrow (s.getV x) (s.getV y)) (s.getV x - s.getV y)
  | .shr x _ => s.advancePc.writeFlagThenResult x (lowBit (s.getV x)) (s.getV x >>> 1)
  | .subn x y => s.advancePc.writeFlagThenResult x (noBorrow (s.getV y) (s.getV x)) (s.getV y - s.getV x)
  | .shl x _ => s.advancePc.writeFlagThenResult x (highBit (s.getV x)) (s.getV x <<< 1)
  | .sneReg x y _ => s.skipIf (s.getV x != s.getV y)
  | .ldI nnn => s.advancePc.setI (zextAddr nnn)
  | .jpV0 nnn => s.advancePc.setPc (offsetTarget (s.getV 0x0#4) nnn)
  | .rnd x nn => s.advancePc.afterRandByte.setV x (s.nextRandByte &&& nn)
  | .drw x y n => (s.advancePc.setDisp (s.drawSprite x y n).disp).setV vf (flagByte (s.drawSprite x y n).hit)
  | .skp x => s.skipIf (s.keyDown (s.getV x).toNat)
  | .sknp x => s.skipIf (!s.keyDown (s.getV x).toNat)
  | .ldVxDt x => s.advancePc.setV x s.dt
  | .ldVxK x =>
    match s.lowestKey with
    | some k => s.advancePc.setV x (BitVec.ofNat 8 k)
    | none => s.advancePc.setPc (s.advancePc.pc - 2#16)
  | .ldDtVx x => s.advancePc.setDt (s.getV x)
  | .ldStVx x => s.advancePc.setSt (s.getV x)
  | .addI x => s.advancePc.setI (s.i + zextByte (s.getV x))
  | .ldF x =>
    if (s.getV x).toNat > 15 ∧ s.fx29High = .draw then s.advancePc.afterFontAddress.setI s.nextFontAddress
    else s.advancePc.setI (glyphAddress (s.getV x))
  | .ldB x =>
    ((s.advancePc.writeByte s.base (hundredsDigit (s.getV x))).writeByte (s.base + 1)
      (tensDigit (s.getV x))).writeByte (s.base + 2) (onesDigit (s.getV x))
  | .ldMemVx x => s.advancePc.storeRegs s.base (regCount x)
  | .ldVxMem x => s.advancePc.loadRegs s.base (regCount x)
  | .nop _ => s.advancePc

/-- Every meaning of the model is its check and then its effect. -/
theorem exec_eq_attempt (i : Instr) (s : State) : exec i s = attempt i s (Instr.raised s i) (Instr.effect s i) := by
  cases i with
  | ldF x =>
    simp only [exec, execLdF, Instr.effect]
    split <;> rfl
  | ldVxK x =>
    simp only [exec, execLdVxK, Instr.effect]
    cases s.lowestKey <;> rfl
  | _ => rfl

theorem exec_of_raised_none {i : Instr} {s : State} (h : Instr.raised s i = none) :
    exec i s = .next (Instr.effect s i) := by
  rw [exec_eq_attempt, h, attempt_none]

theorem exec_of_raised_some {i : Instr} {s : State} {e : Raise} (h : Instr.raised s i = some e) :
    exec i s = .next (s.takeFault (some (encode i)) e) := by
  rw [exec_eq_attempt, h, attempt_some]

/-- Everything an instruction answers. -/
theorem exec_cases {i : Instr} {s t : State} (h : exec i s = .next t) :
    (Instr.raised s i = none ∧ t = Instr.effect s i) ∨
      ∃ e, Instr.raised s i = some e ∧ t = s.takeFault (some (encode i)) e :=
  attempt_cases (exec_eq_attempt i s ▸ h)

/-! ## Every step answers (60_exceptions.md section 1) -/

theorem exec_answers (i : Instr) (s : State) : ∃ t, exec i s = .next t := by
  cases h : Instr.raised s i with
  | none => exact ⟨_, exec_of_raised_none h⟩
  | some e => exact ⟨_, exec_of_raised_some h⟩

theorem cycle_answers (s : State) : ∃ u, cycle s = .next u := by
  cases h : s.fetch with
  | error e => exact ⟨_, cycle_eq_takeFault h⟩
  | ok w =>
    rw [cycle_eq_exec h]
    exact exec_answers (decode w) s

/-- Everything a step answers: the end of a frame that runs no cycle, or a cycle and its end. -/
theorem step_cases {s t : State} (h : step s = .next t) :
    (∃ u, s.nextSlot = .frameOver u ∧ t = u.present) ∨
      ∃ u v, s.nextSlot = .cycle u ∧ cycle u = .next v ∧ t = v.afterCycle := by
  change advance s = .next t at h
  cases hslot : s.nextSlot with
  | frameOver u =>
    rw [advance_frameOver hslot] at h
    exact .inl ⟨u, rfl, (Host.Outcome.next.inj h).symm⟩
  | cycle u =>
    obtain ⟨v, hcycle⟩ := cycle_answers u
    rw [advance_cycle hslot hcycle] at h
    exact .inr ⟨u, v, rfl, hcycle, (Host.Outcome.next.inj h).symm⟩

/-- Settles O35: a slot without a cycle presents, a cycle answers its fetch fault or what its instruction answers. -/
theorem stepAlwaysAnswers : Obligations.StepAlwaysAnswers := by
  intro s
  cases hslot : s.nextSlot with
  | frameOver u => exact ⟨u.present, advance_frameOver hslot⟩
  | cycle u =>
    obtain ⟨v, hcycle⟩ := cycle_answers u
    exact ⟨v.afterCycle, advance_cycle hslot hcycle⟩

/-! ## The access matrix (10_state.md R43) -/

theorem keeps_writeFlagThenResult (s : State) (x : Nibble) (flag : Bool) (b : Byte) :
    Keeps (Changes.regAndVf x) s (s.advancePc.writeFlagThenResult x flag b) :=
  (((Keeps.refl _ s).setPc _).setV (by simp [Changes.regAndVf]) _).setV (by simp [Changes.regAndVf]) _

theorem keeps_skipIf (s : State) (taken : Bool) : Keeps Changes.pcOnly s (s.skipIf taken) := by
  constructor <;> intros <;> simp [State.getV]

/-- The effect of an instruction writes only what its row lists. -/
theorem keeps_effect (s : State) (i : Instr) : Keeps (Instr.writes s i) s (Instr.effect s i) := by
  have advanced : Keeps (Instr.writes s i) s s.advancePc := (Keeps.refl _ s).setPc _
  cases i with
  | cls => exact advanced.setDisp rfl _
  | ret => exact (advanced.dropTop rfl).setPc _
  | call nnn => exact (advanced.push rfl _).setPc _
  | jp | jpV0 => exact advanced.setPc _
  | seImm | sneImm | seReg | sneReg | skp | sknp => exact keeps_skipIf s _
  | nop => exact advanced
  | addReg | sub | shr | subn | shl => exact keeps_writeFlagThenResult s _ _ _
  | ldI | addI => exact advanced.setI rfl _
  | ldDtVx => exact advanced.setDt rfl _
  | ldStVx => exact advanced.setSt rfl _
  | rnd x nn => exact (advanced.afterRandByte rfl rfl).setV (beq_self_eq_true x) _
  | drw x y n => exact (advanced.setDisp rfl _).setV rfl _
  | ldF x =>
    simp only [Instr.effect]
    split
    · exact (advanced.afterFontAddress rfl).setI rfl _
    · exact advanced.setI rfl _
  | ldVxK x =>
    simp only [Instr.effect]
    split
    · exact advanced.setV (beq_self_eq_true x) _
    · exact advanced.setPc _
  | ldB x =>
    have listed (j : Nat) (hj : j < 3) : (Instr.writes s (.ldB x)).mem (s.base + j) = true := by
      simp [Instr.writes, Changes.bytes, hj]
    exact ((advanced.writeByte (listed 0 (by decide)) _).writeByte (listed 1 (by decide)) _).writeByte
      (listed 2 (by decide)) _
  | ldMemVx x => exact advanced.storeRegs fun j hj => by simp [Instr.writes, Changes.bytes, hj]
  | ldVxMem x =>
    refine advanced.loadRegs fun j hj => ?_
    have hx : x.toNat < 16 := x.isLt
    unfold regCount at hj
    simp only [Instr.writes, Changes.regsUpTo, decide_eq_true_eq]
    rw [nibble_ofNat_toNat (by omega)]
    omega
  | ldImm x | addImm x | ldReg x | orReg x | andReg x | xorReg x | ldVxDt x =>
    exact advanced.setV (beq_self_eq_true x) _

theorem keeps_of_exec {i : Instr} {s t : State} (h : exec i s = .next t) : Keeps (Instr.writes s i) s t := by
  obtain ⟨-, rfl⟩ | ⟨e, -, rfl⟩ := exec_cases h
  · exact keeps_effect s i
  · exact (Keeps.refl _ s).takeFault _ e

/-- Settles O37: the effect keeps to the matrix, operation by operation, and fault entry writes nothing of it. -/
theorem writesStayInAccessMatrix : Obligations.WritesStayInAccessMatrix := fun _ _ _ => keeps_of_exec

end Sys2Proof.Machine

namespace Sys2Proof.Machine

open Sys2Proof

/-! ## The fault table (60_exceptions.md R270) -/

theorem unfaulted_effect (s : State) (i : Instr) : Unfaulted s (Instr.effect s i) := by
  cases i with
  | ldF x | ldVxK x =>
    simp only [Instr.effect]
    split <;> exact ⟨rfl, rfl⟩
  | _ => constructor <;> simp [Instr.effect]

/-- Looking at `n` addresses from `a` on one by one finds what the check computes from the two ends. -/
theorem firstOutside_eq_addressCheck (a n : Nat) : firstOutside a n = (addressCheck a n).map Raise.detail := by
  induction n with
  | zero => rfl
  | succ n ih =>
    have step : firstOutside a (n + 1) = (firstOutside a n).or (if memSize ≤ a + n then some (a + n) else none) := by
      simp [firstOutside, List.range_succ, List.find?_append]
    rw [step, ih]
    by_cases hn : memSize < a + n ∧ n ≠ 0
    · rw [(addressCheck_eq_some a n _).2 ⟨hn.symm, rfl⟩, (addressCheck_eq_some a (n + 1) _).2 ⟨by omega, rfl⟩]
      rfl
    · rw [(addressCheck_eq_none a n).2 (by omega)]
      by_cases hlast : memSize ≤ a + n
      · have first : max a memSize = a + n := by omega
        rw [if_pos hlast, (addressCheck_eq_some a (n + 1) _).2 ⟨by omega, rfl⟩, first]
        rfl
      · rw [if_neg hlast, (addressCheck_eq_none a (n + 1)).2 (by omega)]
        rfl

/-- The check of an instruction raises what the fault table lists. -/
theorem faultOf_eq_raised (s : State) (i : Instr) :
    Instr.faultOf s i = (Instr.raised s i).map fun e => (e.code, e.detail) := by
  have address (a n : Nat) : (firstOutside a n).map (Prod.mk FaultCode.addressOutOfRange) =
      (addressCheck a n).map fun e => (e.code, e.detail) := by
    rw [firstOutside_eq_addressCheck]
    cases h : addressCheck a n with
    | none => rfl
    | some e =>
      obtain ⟨-, rfl⟩ := (addressCheck_eq_some a n e).1 h
      rfl
  cases i with
  | ret =>
    simp only [Instr.faultOf, Instr.raised, State.popCheck]
    split <;> rfl
  | call nnn =>
    simp only [Instr.faultOf, Instr.raised, State.pushCheck]
    split <;> rfl
  | skp x | sknp x =>
    simp only [Instr.faultOf, Instr.raised, keyCheck]
    split <;> rfl
  | drw x y n => exact address _ _
  | ldB x => exact address _ _
  | ldMemVx x | ldVxMem x => exact address _ _
  | _ => rfl

theorem faultTaken_takeFault (s : State) (w : Option Word) (e : Raise) :
    FaultTaken e.code w e.detail s (s.takeFault w e) where
  pc := rfl
  halted := rfl
  latch := rfl
  rest := (Keeps.refl _ s).takeFault w e

theorem raised_eq_none_of_faultOf {s : State} {i : Instr} (h : Instr.faultOf s i = none) : Instr.raised s i = none := by
  rwa [faultOf_eq_raised, Option.map_eq_none_iff] at h

theorem raised_eq_some_of_faultOf {s : State} {i : Instr} {code : FaultCode} {detail : Nat}
    (h : Instr.faultOf s i = some (code, detail)) : Instr.raised s i = some { code := code, detail := detail } := by
  rw [faultOf_eq_raised, Option.map_eq_some_iff] at h
  obtain ⟨e, hraised, he⟩ := h
  cases he
  exact hraised

/-- Settles O36: the check raises what the table lists; an effect takes no fault, and fault entry commits nothing. -/
theorem faultsAreThoseOfTheTable : Obligations.FaultsAreThoseOfTheTable := by
  intro i s t h
  constructor
  · intro hnone
    obtain rfl := Host.Outcome.next.inj ((exec_of_raised_none (raised_eq_none_of_faultOf hnone)).symm.trans h)
    exact unfaulted_effect s i
  · intro code detail hsome
    obtain rfl := Host.Outcome.next.inj ((exec_of_raised_some (raised_eq_some_of_faultOf hsome)).symm.trans h)
    exact faultTaken_takeFault s _ { code := code, detail := detail }

/-! ## What no instruction reads (10_state.md R37, section 7; 60_exceptions.md R305) -/

/-- The fields no instruction reads and only LD ST, Vx writes: ST, and those of the frame. -/
structure Unread where
  st : Byte
  k : Nat
  left : Nat
  inputs : List FrameInput
  frames : Nat
  presented : Option Outputs

/-- The unread fields of a state. -/
def State.unread (s : State) : Unread :=
  { st := s.st, k := s.k, left := s.left, inputs := s.inputs, frames := s.frames, presented := s.presented }

/-- The state with other values in the unread fields. -/
def State.withUnread (s : State) (u : Unread) : State :=
  { s with st := u.st, k := u.k, left := u.left, inputs := u.inputs, frames := u.frames, presented := u.presented }

theorem State.withUnread_storeRegs (s : State) (u : Unread) (a n : Nat) :
    (s.withUnread u).storeRegs a n = (s.storeRegs a n).withUnread u := by
  induction n with
  | zero => rfl
  | succ n ih =>
    rw [State.storeRegs, ih]
    rfl

theorem State.withUnread_loadRegs (s : State) (u : Unread) (a n : Nat) :
    (s.withUnread u).loadRegs a n = (s.loadRegs a n).withUnread u := by
  induction n with
  | zero => rfl
  | succ n ih =>
    rw [State.loadRegs, ih]
    rfl

theorem State.withUnread_push (s : State) (u : Unread) (w : Word) :
    (s.withUnread u).push w = (s.push w).withUnread u := by
  by_cases h : s.sp.val < 12
  · have h' : (s.withUnread u).sp.val < 12 := h
    simp only [State.push, dif_pos h, dif_pos h']
    rfl
  · have h' : ¬(s.withUnread u).sp.val < 12 := h
    simp only [State.push, dif_neg h, dif_neg h']

theorem raised_withUnread (s : State) (u : Unread) (i : Instr) :
    Instr.raised (s.withUnread u) i = Instr.raised s i := by
  cases i <;> rfl

theorem State.withUnread_skipIf (s : State) (u : Unread) (taken : Bool) :
    (s.withUnread u).skipIf taken = (s.skipIf taken).withUnread u := by
  cases taken <;> rfl

theorem effect_ldF_draw {s : State} {x : Nibble} (h : (s.getV x).toNat > 15 ∧ s.fx29High = .draw) :
    Instr.effect s (.ldF x) = s.advancePc.afterFontAddress.setI s.nextFontAddress := if_pos h

theorem effect_ldF_formula {s : State} {x : Nibble} (h : ¬((s.getV x).toNat > 15 ∧ s.fx29High = .draw)) :
    Instr.effect s (.ldF x) = s.advancePc.setI (glyphAddress (s.getV x)) := if_neg h

/-- The effect of an instruction carries the unread fields along. -/
theorem effect_withUnread {i : Instr} (hi : i.opClass ≠ .ldStVx) (s : State) (u : Unread) :
    Instr.effect (s.withUnread u) i = (Instr.effect s i).withUnread u := by
  cases i with
  | ldStVx x => exact absurd rfl hi
  | call nnn => exact congrArg (State.setPc · (zextAddr nnn)) (State.withUnread_push s.advancePc u s.advancePc.pc)
  | ldMemVx x => exact State.withUnread_storeRegs s.advancePc u _ _
  | ldVxMem x => exact State.withUnread_loadRegs s.advancePc u _ _
  | seImm | sneImm | seReg | sneReg | skp | sknp => exact State.withUnread_skipIf s u _
  | ldF x =>
    by_cases h : (s.getV x).toNat > 15 ∧ s.fx29High = .draw
    · exact (effect_ldF_draw (s := s.withUnread u) h).trans (congrArg (State.withUnread · u) (effect_ldF_draw h).symm)
    · exact (effect_ldF_formula (s := s.withUnread u) h).trans
        (congrArg (State.withUnread · u) (effect_ldF_formula h).symm)
  | ldVxK x =>
    have hkey : (s.withUnread u).lowestKey = s.lowestKey := rfl
    simp only [Instr.effect, hkey]
    cases s.lowestKey <;> rfl
  | _ => rfl

theorem exec_withUnread {i : Instr} {s t : State} (hi : i.opClass ≠ .ldStVx) (u : Unread) (h : exec i s = .next t) :
    exec i (s.withUnread u) = .next (t.withUnread u) := by
  obtain ⟨hraised, rfl⟩ | ⟨e, hraised, rfl⟩ := exec_cases h
  · rw [exec_of_raised_none (by rwa [raised_withUnread]), effect_withUnread hi]
  · rw [exec_of_raised_some (by rwa [raised_withUnread])]
    rfl

/-- An instruction leaves the unread fields as they are. -/
theorem unread_of_exec {i : Instr} {s t : State} (hi : i.opClass ≠ .ldStVx) (h : exec i s = .next t) :
    t.unread = s.unread := by
  have kept := keeps_of_exec h
  have hst : t.st = s.st := (exec_keepsFrameState h).st hi
  simp only [State.unread, hst, kept.config.1, kept.batch, kept.host.1, kept.host.2.1, kept.host.2.2]

/-- Settles O38: LD ST, Vx writes ST without reading it, and every other instruction carries it along. -/
theorem soundTimerIsReadByNone : Obligations.SoundTimerIsReadByNone := by
  intro i s t b h
  by_cases hi : i.opClass = .ldStVx
  · rw [if_pos hi]
    cases i with
    | ldStVx x => exact h
    | _ => cases hi
  · rw [if_neg hi]
    have same : t.withUnread { s.unread with st := b } = t.setSt b := by
      rw [← unread_of_exec hi h]
      rfl
    exact (exec_withUnread hi { s.unread with st := b } h).trans (congrArg _ same)

/-- Settles O39: an instruction carries the unread fields along; LD ST, Vx reads Vx alone. -/
theorem instructionsIgnoreTheFrame : Obligations.InstructionsIgnoreTheFrame := by
  intro i s t k left frames inputs p h
  by_cases hi : i.opClass = .ldStVx
  · cases i with
    | ldStVx x =>
      obtain rfl := Host.Outcome.next.inj h
      rfl
    | _ => cases hi
  · have hst : t.st = s.st := (exec_keepsFrameState h).st hi
    have same : t.withUnread { st := s.st, k, left, inputs, frames, presented := p } =
        { t with k := k, left := left, frames := frames, inputs := inputs, presented := p } := by
      rw [← hst]
      rfl
    exact (exec_withUnread hi { st := s.st, k, left, inputs, frames, presented := p } h).trans (congrArg _ same)

/-! ## What a cycle keeps -/

/-- A property that every instruction and the fetch fault give is a property of every cycle. -/
theorem cycle_cases {s u : State} (h : cycle s = .next u) :
    (∃ e, s.fetch = .error e ∧ u = s.takeFault none e) ∨ ∃ w, s.fetch = .ok w ∧ exec (decode w) s = .next u := by
  cases hfetch : s.fetch with
  | error e =>
    rw [cycle_eq_takeFault hfetch] at h
    exact .inl ⟨e, rfl, (Host.Outcome.next.inj h).symm⟩
  | ok w => exact .inr ⟨w, rfl, cycle_eq_exec hfetch ▸ h⟩

/-- The fields a cycle never writes. -/
structure KeepsHost (s u : State) : Prop where
  config : u.k = s.k ∧ u.fx29High = s.fx29High
  left : u.left = s.left
  host : u.inputs = s.inputs ∧ u.frames = s.frames ∧ u.presented = s.presented

theorem cycle_keepsHost {s u : State} (h : cycle s = .next u) : KeepsHost s u := by
  obtain ⟨e, -, rfl⟩ | ⟨w, -, hexec⟩ := cycle_cases h
  · exact ⟨⟨rfl, rfl⟩, rfl, rfl, rfl, rfl⟩
  · have kept := keeps_of_exec hexec
    exact ⟨kept.config, kept.batch, kept.host⟩

/-- A cycle takes no fault, or takes one and changes nothing else. -/
theorem cycle_unfaulted_or_takeFault {s u : State} (h : cycle s = .next u) :
    Unfaulted s u ∨ ∃ w e, u = s.takeFault w e := by
  obtain ⟨e, -, rfl⟩ | ⟨w, -, hexec⟩ := cycle_cases h
  · exact .inr ⟨none, e, rfl⟩
  · obtain ⟨-, rfl⟩ | ⟨e, -, rfl⟩ := exec_cases hexec
    · exact .inl (unfaulted_effect s _)
    · exact .inr ⟨_, e, rfl⟩

@[simp] theorem State.afterCycle_k (s : State) : s.afterCycle.k = s.k := by
  rcases s.afterCycle_cases with ⟨-, h⟩ | ⟨-, -, h⟩ | ⟨-, -, h⟩ <;> simp [h]

@[simp] theorem State.afterCycle_fx29High (s : State) : s.afterCycle.fx29High = s.fx29High := by
  rcases s.afterCycle_cases with ⟨-, h⟩ | ⟨-, -, h⟩ | ⟨-, -, h⟩ <;> simp [h]

@[simp] theorem State.afterCycle_fault (s : State) : s.afterCycle.fault = s.fault := by
  rcases s.afterCycle_cases with ⟨-, h⟩ | ⟨-, -, h⟩ | ⟨-, -, h⟩ <;> simp [h]

/-- The state a slot runs its cycle from. -/
theorem State.nextSlot_cycle_cases {s u : State} (h : s.nextSlot = .cycle u) :
    (s.runState = .running ∧ s.left ≠ 0 ∧ u = s) ∨
      (s.begun.runState = .running ∧ s.k ≠ 0 ∧ u = { s.begun with left := s.k }) := by
  rcases s.nextSlot_cases with ⟨-, hs⟩ | ⟨hrun, hleft, hs⟩ | ⟨-, ⟨-, -, hs⟩ | ⟨hrun, hk, hs⟩ | ⟨-, hs⟩⟩
  · cases hs.symm.trans h
  · cases hs.symm.trans h
    exact .inl ⟨hrun, hleft, rfl⟩
  · cases hs.symm.trans h
  · cases hs.symm.trans h
    exact .inr ⟨hrun, hk, rfl⟩
  · cases hs.symm.trans h

/-- A slot leaves the configuration and the fault latch as they are before its cycle. -/
theorem State.nextSlot_state_config (s : State) :
    s.nextSlot.state.k = s.k ∧ s.nextSlot.state.fx29High = s.fx29High ∧ s.nextSlot.state.fault = s.fault := by
  cases h : s.nextSlot with
  | frameOver u => rcases State.nextSlot_frameOver_cases h with rfl | rfl | rfl <;> simp [Slot.state]
  | cycle u =>
    rcases State.nextSlot_cycle_cases h with ⟨-, -, rfl⟩ | ⟨-, -, rfl⟩ <;> simp [Slot.state]

/-- Settles O50: neither the slot, nor the cycle, nor its end writes the configuration. -/
theorem configurationIsFixed : Obligations.ConfigurationIsFixed := by
  intro s t h
  obtain ⟨slotK, slotHigh, -⟩ := s.nextSlot_state_config
  obtain ⟨u, hslot, rfl⟩ | ⟨u, v, hslot, hcycle, rfl⟩ := step_cases h
  · rw [hslot] at slotK slotHigh
    exact ⟨slotK, slotHigh⟩
  · obtain ⟨cycleK, cycleHigh⟩ := (cycle_keepsHost hcycle).config
    rw [hslot] at slotK slotHigh
    exact ⟨v.afterCycle_k.trans (cycleK.trans slotK), v.afterCycle_fx29High.trans (cycleHigh.trans slotHigh)⟩

/-! ## A latched fault (60_exceptions.md section 1) -/

theorem cycle_fault {s u : State} {r : FaultRecord} (h : cycle s = .next u) (hr : s.fault = some r) :
    u.fault = some r := by
  obtain ⟨-, hfault⟩ | ⟨w, e, rfl⟩ := cycle_unfaulted_or_takeFault h
  · rw [hfault, hr]
  · simp [hr]

theorem step_fault {s t : State} {r : FaultRecord} (h : step s = .next t) (hr : s.fault = some r) :
    t.fault = some r := by
  obtain ⟨-, -, slotFault⟩ := s.nextSlot_state_config
  obtain ⟨u, hslot, rfl⟩ | ⟨u, v, hslot, hcycle, rfl⟩ := step_cases h
  · rw [hslot, hr] at slotFault
    exact slotFault
  · rw [hslot, hr] at slotFault
    exact v.afterCycle_fault.trans (cycle_fault hcycle slotFault)

theorem run_of_halted {s : State} (h : s.runState = .halted) (n : Nat) :
    Host.Core.run core (n + 1) s = .next s.present := by
  induction n generalizing s with
  | zero => rw [run_succ (advance_halted h), run_zero]
  | succ n ih => rw [run_succ (advance_halted h), ih (s := s.present) h, State.present_present]

/-- Settles O40: a cycle keeps the first fault, and presenting the outputs of a Halted core again changes nothing. -/
theorem haltedIsFinal : Obligations.HaltedIsFinal := ⟨fun _ _ _ => step_fault, fun _ n h => run_of_halted h n⟩

end Sys2Proof.Machine

namespace Sys2Proof.Machine

open Sys2Proof

/-! ## The invariant through a cycle (40_cycle.md R134, R137; 41_control_flow.md R150) -/

/-- The part of the invariant that holds between the parts of a step as well; the rest holds again once the frame ends
or the batch goes on. -/
structure State.CycleInv (s : State) : Prop where
  memCanonical : s.mem.wf = true
  faultHalts : s.fault ≠ none → s.runState = .halted
  faultPc : ∀ r, s.fault = some r → r.pc = s.pc
  pcBound : s.pc.toNat ≤ 0x1002
  stackBound : ∀ k, (h : k < 12) → s.stack[k].toNat ≤ 0x1000

theorem State.Inv.cycleInv {s : State} (h : s.Inv) : s.CycleInv := { h with }

theorem State.Inv.fault_eq_none {s : State} (h : s.Inv) (hrun : s.runState ≠ .halted) : s.fault = none :=
  by_contra fun hfault => hrun (h.faultHalts hfault)

/-- The end of a frame gives the whole invariant. -/
theorem State.CycleInv.present {s : State} (h : s.CycleInv) (hleft : s.left = 0) : s.present.Inv where
  slotsLeft := by simp [hleft]
  closedBatch _ := hleft
  haltPresented _ := rfl
  __ := h

theorem State.CycleInv.timerTick {s : State} (h : s.CycleInv) : (timerTick s).CycleInv := { h with }

theorem State.CycleInv.setLeft {s : State} (h : s.CycleInv) (n : Nat) : State.CycleInv { s with left := n } :=
  { h with }

/-- The events of a frame start keep the invariant: with no fault latched the run state is free. -/
theorem State.Inv.begun {s : State} (h : s.Inv) (hrun : s.runState ≠ .halted) : s.begun.CycleInv where
  memCanonical := by simpa using h.memCanonical
  faultHalts hfault := absurd (by simpa using h.fault_eq_none hrun) hfault
  faultPc r hr := by
    rw [State.startFrame_fault, State.afterInput_fault, h.fault_eq_none hrun] at hr
    cases hr
  pcBound := by simpa using h.pcBound
  stackBound := by simpa using h.stackBound

theorem State.Inv.nextSlot {s : State} (h : s.Inv) : s.nextSlot.state.CycleInv := by
  rcases s.nextSlot_cases with ⟨-, hs⟩ | ⟨-, -, hs⟩ | ⟨⟨hrun, -⟩, ⟨-, -, hs⟩ | ⟨-, -, hs⟩ | ⟨-, hs⟩⟩ <;>
    rw [hs]
  · exact h.cycleInv
  · exact h.cycleInv
  · exact (h.begun hrun).timerTick
  · exact (h.begun hrun).setLeft _
  · exact h.begun hrun

/-! ### Memory, PC and the stack after an instruction -/

theorem raised_ldB_eq_none_iff (s : State) (x : Nibble) : Instr.raised s (.ldB x) = none ↔ s.i.toNat + 2 < 4096 := by
  refine (addressCheck_eq_none s.base 3).trans ?_
  simp only [State.base, memSize]
  omega

theorem raised_ldMemVx_eq_none_iff (s : State) (x : Nibble) :
    Instr.raised s (.ldMemVx x) = none ↔ s.i.toNat + x.toNat < 4096 := by
  refine (addressCheck_eq_none s.base (regCount x)).trans ?_
  simp only [State.base, regCount, memSize]
  omega

theorem raised_ldVxMem_eq_none_iff (s : State) (x : Nibble) :
    Instr.raised s (.ldVxMem x) = none ↔ s.i.toNat + x.toNat < 4096 := raised_ldMemVx_eq_none_iff s x

theorem effect_mem_wf {s : State} {i : Instr} (hi : Instr.raised s i = none) (h : s.mem.wf = true) :
    (Instr.effect s i).mem.wf = true := by
  cases i with
  | ldB x =>
    have inside : s.base + 2 < 4096 := (raised_ldB_eq_none_iff s x).1 hi
    have address (j : Nat) (hj : j ≤ 2) : s.base + j < memSize := (Nat.add_le_add_left hj _).trans_lt inside
    exact Memory.wf_write _ (Memory.wf_write _ (Memory.wf_write _ h (address 0 (by decide))) (address 1 (by decide)))
      (address 2 (by decide))
  | ldMemVx x => exact State.wf_storeRegs (s := s.advancePc) h ((raised_ldMemVx_eq_none_iff s x).1 hi)
  | ldF x | ldVxK x =>
    simp only [Instr.effect]
    split <;> exact h
  | _ => simpa [Instr.effect] using h

theorem zextByte_toNat (b : Byte) : (zextByte b).toNat = b.toNat := BitVec.toNat_setWidth_of_le (by decide)

theorem offsetTarget_toNat (b : Byte) (nnn : Addr) : (offsetTarget b nnn).toNat = (b.toNat + nnn.toNat) % 4096 := by
  have hb := b.isLt
  have hn := nnn.isLt
  rw [offsetTarget, BitVec.toNat_and, BitVec.toNat_add, zextByte_toNat, zextAddr_toNat]
  have hmask : (0x0FFF#16).toNat = 2 ^ 12 - 1 := by decide
  rw [hmask, Nat.and_two_pow_sub_one_eq_mod]
  omega

theorem skipIf_pc_le {s : State} (h : s.pc.toNat + 1 < 4096) (taken : Bool) :
    (s.skipIf taken).pc.toNat ≤ 0x1002 := by
  rw [State.skipIf_pc]
  split <;> rw [BitVec.toNat_add] <;> simp <;> omega

theorem advancePc_pc_le {s : State} (h : s.pc.toNat + 1 < 4096) : s.advancePc.pc.toNat ≤ 0x1000 := by
  rw [State.advancePc_pc, BitVec.toNat_add]
  simp
  omega

/-- After an instruction that was fetched, PC is at most two words past the last one. -/
theorem effect_pc_le {s : State} (i : Instr) (hfetch : s.pc.toNat + 1 < 4096)
    (hstack : ∀ k, (h : k < 12) → s.stack[k].toNat ≤ 0x1000) : (Instr.effect s i).pc.toNat ≤ 0x1002 := by
  have advanced := advancePc_pc_le hfetch
  cases i with
  | seImm | sneImm | seReg | sneReg | skp | sknp => exact skipIf_pc_le hfetch _
  | jp nnn | call nnn =>
    have hn := nnn.isLt
    have hpc : (zextAddr nnn).toNat ≤ 0x1002 := by rw [zextAddr_toNat]; omega
    exact hpc
  | jpV0 nnn =>
    have hpc : (offsetTarget (s.getV 0x0#4) nnn).toNat ≤ 0x1002 := by rw [offsetTarget_toNat]; omega
    exact hpc
  | ret => exact (hstack _ _).trans (by decide)
  | ldVxK x =>
    simp only [Instr.effect]
    split
    · exact advanced.trans (by decide)
    · simp
      omega
  | ldF x =>
    simp only [Instr.effect]
    split <;> exact advanced.trans (by decide)
  | _ => simpa [Instr.effect] using advanced.trans (by decide)

/-- No instruction but CALL writes a stack entry: RET leaves the one it pops in place. -/
theorem effect_stack {i : Instr} (hi : ∀ nnn, i ≠ .call nnn) (s : State) : (Instr.effect s i).stack = s.stack := by
  cases i with
  | call nnn => exact absurd rfl (hi nnn)
  | ret => rfl
  | _ => exact ((keeps_effect s _).stack rfl).1

/-- Every entry after an instruction is one from before it, or the return address a CALL pushed. -/
theorem effect_stack_le {s : State} {i : Instr} (hi : Instr.raised s i = none) (hfetch : s.pc.toNat + 1 < 4096)
    (hstack : ∀ k, (h : k < 12) → s.stack[k].toNat ≤ 0x1000) (k : Nat) (hk : k < 12) :
    (Instr.effect s i).stack[k].toNat ≤ 0x1000 := by
  by_cases hcall : ∃ nnn, i = .call nnn
  · obtain ⟨nnn, rfl⟩ := hcall
    have hsp : s.advancePc.sp.val < 12 := (s.pushCheck_eq_none _).1 hi
    have entry : (Instr.effect s (.call nnn)).stack[k] = if k = s.sp.val then s.advancePc.pc else s.stack[k] :=
      State.push_entry (s := s.advancePc) s.advancePc.pc hsp k hk
    rw [entry]
    split
    · exact advancePc_pc_le hfetch
    · exact hstack k hk
  · have same := effect_stack (fun nnn e => hcall ⟨nnn, e⟩) s
    simpa only [same] using hstack k hk

/-! ### The invariant of the core -/

theorem State.CycleInv.takeFault {s : State} (h : s.CycleInv) (hnone : s.fault = none) (w : Option Word) (e : Raise) :
    (s.takeFault w e).CycleInv where
  faultHalts _ := rfl
  faultPc r hr := by
    rw [State.takeFault_fault, if_pos hnone] at hr
    exact (congrArg FaultRecord.pc (Option.some.inj hr)).symm
  __ := h

theorem State.CycleInv.effect {s : State} (h : s.CycleInv) (hnone : s.fault = none) {i : Instr}
    (hi : Instr.raised s i = none) (hfetch : s.pc.toNat + 1 < 4096) : (Instr.effect s i).CycleInv where
  memCanonical := effect_mem_wf hi h.memCanonical
  faultHalts hfault := absurd ((unfaulted_effect s i).2.trans hnone) hfault
  faultPc r hr := by
    rw [(unfaulted_effect s i).2, hnone] at hr
    cases hr
  pcBound := effect_pc_le i hfetch h.stackBound
  stackBound := effect_stack_le hi hfetch h.stackBound

theorem pc_lt_of_fetch_ok {s : State} {w : Word} (h : s.fetch = .ok w) : s.pc.toNat + 1 < 4096 := by
  by_contra hpc
  rw [State.fetch_error (not_lt.1 hpc)] at h
  cases h

theorem State.CycleInv.cycle {s u : State} (h : s.CycleInv) (hrun : s.runState = .running)
    (hcycle : cycle s = .next u) : u.CycleInv := by
  have hnone : s.fault = none := by_contra fun hfault => by simp [h.faultHalts hfault] at hrun
  obtain ⟨e, -, rfl⟩ | ⟨w, hfetch, hexec⟩ := cycle_cases hcycle
  · exact h.takeFault hnone none e
  · obtain ⟨hi, rfl⟩ | ⟨e, -, rfl⟩ := exec_cases hexec
    · exact h.effect hnone hi (pc_lt_of_fetch_ok hfetch)
    · exact h.takeFault hnone _ e

/-- A cycle of a Running core leaves it Running or, with a fault, Halted. -/
theorem cycle_runState {s u : State} (hrun : s.runState = .running) (hcycle : cycle s = .next u)
    (hu : u.runState ≠ .halted) : u.runState = .running := by
  obtain ⟨hsame, -⟩ | ⟨w, e, rfl⟩ := cycle_unfaulted_or_takeFault hcycle
  · exact hsame.trans hrun
  · exact absurd rfl hu

/-- The end of a cycle closes the batch or goes on with one slot less. -/
theorem State.CycleInv.afterCycle {s : State} (h : s.CycleInv) (hleft : s.left ≤ s.k)
    (hrun : s.runState ≠ .halted → s.runState = .running) : s.afterCycle.Inv := by
  obtain ⟨-, hs⟩ | ⟨-, -, hs⟩ | ⟨hhalted, -, hs⟩ := s.afterCycle_cases <;> rw [hs]
  · exact (h.setLeft 0).present rfl
  · exact (h.setLeft 0).timerTick.present rfl
  · exact
      { slotsLeft := (Nat.sub_le s.left 1).trans hleft
        closedBatch := fun hclosed => absurd (hrun hhalted) hclosed
        haltPresented := fun hclosed => absurd hclosed hhalted
        __ := h }

/-- A slot without a cycle has no batch open. -/
theorem State.Inv.nextSlot_frameOver_left {s u : State} (h : s.Inv) (hslot : s.nextSlot = .frameOver u) :
    u.left = 0 := by
  rcases s.nextSlot_cases with ⟨hrun, hs⟩ | ⟨-, -, hs⟩ | ⟨-, ⟨-, -, hs⟩ | ⟨-, -, hs⟩ | ⟨-, hs⟩⟩ <;>
    cases hs.symm.trans hslot
  · exact h.closedBatch (by simp [hrun])
  · exact State.startFrame_left _ _
  · exact State.startFrame_left _ _

theorem State.Inv.nextSlot_cycle_left {s u : State} (h : s.Inv) (hslot : s.nextSlot = .cycle u) : u.left ≤ u.k := by
  obtain ⟨-, -, rfl⟩ | ⟨-, -, rfl⟩ := State.nextSlot_cycle_cases hslot
  · exact h.slotsLeft
  · simp

/-- Settles O55: the slot, the cycle and its end keep what of the invariant holds through a step, and the end of a
frame or of a slot gives the rest. -/
theorem stepKeepsInvariant : Obligations.StepKeepsInvariant := by
  intro s t h hstep
  have hslotInv := h.nextSlot
  obtain ⟨u, hslot, rfl⟩ | ⟨u, v, hslot, hcycle, rfl⟩ := step_cases hstep <;> rw [hslot] at hslotInv
  · exact State.CycleInv.present hslotInv (h.nextSlot_frameOver_left hslot)
  · obtain ⟨hrun, -⟩ := State.nextSlot_cycle_running hslot
    have kept := cycle_keepsHost hcycle
    refine (State.CycleInv.cycle hslotInv hrun hcycle).afterCycle ?_ (cycle_runState hrun hcycle)
    rw [kept.left, kept.config.1]
    exact h.nextSlot_cycle_left hslot

end Sys2Proof.Machine

namespace Sys2Proof.Machine

open Sys2Proof

/-! ## A step inside a batch and at a frame start (60_exceptions.md section 4) -/

theorem step_in_batch {s u : State} (hrun : s.runState = .running) (hleft : s.left ≠ 0) (h : cycle s = .next u) :
    step s = .next u.afterCycle :=
  advance_cycle (State.nextSlot_in_batch hrun hleft) h

/-- The slot at a frame start, by what its events leave. -/
theorem State.nextSlot_at_frame_start {s : State} (hhalted : s.runState ≠ .halted)
    (hstart : s.runState = .running → s.left = 0) :
    s.nextSlot =
      if s.begun.runState = .running then
        if s.k = 0 then .frameOver (timerTick s.begun) else .cycle { s.begun with left := s.k }
      else .frameOver s.begun := by
  rcases s.nextSlot_cases with ⟨h, -⟩ | ⟨hrun, hleft, -⟩ | ⟨-, ⟨hb, hk, h⟩ | ⟨hb, hk, h⟩ | ⟨hb, h⟩⟩
  · exact absurd h hhalted
  · exact absurd (hstart hrun) hleft
  · rw [h, if_pos hb, if_pos hk]
  · rw [h, if_pos hb, if_neg hk]
  · rw [h, if_neg hb]

/-- The first step of a batch is the step of the state its frame's events leave, with the whole batch open. -/
theorem step_opens_batch {s : State} (hhalted : s.runState ≠ .halted) (hstart : s.runState = .running → s.left = 0)
    (hb : s.begun.runState = .running) (hk : s.k ≠ 0) : step s = step { s.begun with left := s.k } := by
  obtain ⟨u, hcycle⟩ := cycle_answers { s.begun with left := s.k }
  have hslot : s.nextSlot = .cycle { s.begun with left := s.k } := by
    rw [State.nextSlot_at_frame_start hhalted hstart, if_pos hb, if_neg hk]
  exact (advance_cycle hslot hcycle).trans (step_in_batch (s := { s.begun with left := s.k }) hb hk hcycle).symm

theorem step_empty_batch {s : State} (hhalted : s.runState ≠ .halted) (hstart : s.runState = .running → s.left = 0)
    (hb : s.begun.runState = .running) (hk : s.k = 0) : step s = .next (timerTick s.begun).present :=
  advance_frameOver (by rw [State.nextSlot_at_frame_start hhalted hstart, if_pos hb, if_pos hk])

theorem step_without_batch {s : State} (hhalted : s.runState ≠ .halted) (hstart : s.runState = .running → s.left = 0)
    (hb : s.begun.runState ≠ .running) : step s = .next s.begun.present :=
  advance_frameOver (by rw [State.nextSlot_at_frame_start hhalted hstart, if_neg hb])

theorem cycle_of_decode {s : State} {i : Instr} (hpc : s.pc.toNat + 1 < 4096)
    (hi : decode (wordOfBytes (s.mem.read s.pc.toNat) (s.mem.read (s.pc.toNat + 1))) = i) : cycle s = exec i s := by
  rw [cycle_of_fetch_ok hpc, Memory.word, hi]

/-- Settles O5: the fetch gives the word of the two bytes at PC, in the batch and as its first cycle. -/
theorem stepRunsTheDecodedInstruction : Obligations.StepRunsTheDecodedInstruction := by
  constructor
  · intro s i hrun hleft hpc hi
    obtain ⟨t, ht⟩ := exec_answers i s
    exact ⟨t, ht, step_in_batch hrun hleft ((cycle_of_decode hpc hi).trans ht)⟩
  · rintro s b i hhalted hstart rfl hb hk hpc hi
    obtain ⟨t, ht⟩ := exec_answers i { s.begun with left := s.k }
    refine ⟨t, ht, (step_opens_batch hhalted hstart hb hk).trans
      (step_in_batch (s := { s.begun with left := s.k }) hb hk ?_)⟩
    rw [← ht]
    exact cycle_of_decode (by simpa using hpc) (by simpa using hi)

/-- Settles O6: the larger of PC and 4096 is the first of the two addresses that is outside. -/
theorem fetchOutsideMemoryFaults : Obligations.FetchOutsideMemoryFaults := by
  intro s hpc
  have first : max s.pc.toNat 4096 = if 4096 ≤ s.pc.toNat then s.pc.toNat else s.pc.toNat + 1 := by
    split <;> omega
  rw [← first]
  exact ⟨_, cycle_of_fetch_error hpc,
    faultTaken_takeFault s none { code := .addressOutOfRange, detail := max s.pc.toNat 4096 }⟩

/-! ## The frame by its steps (60_exceptions.md R290, R292) -/

/-- The position in the batch makes no difference to an instruction, nor to a cycle. -/
theorem exec_setLeft {i : Instr} {s t : State} (h : exec i s = .next t) (n : Nat) :
    exec i { s with left := n } = .next { t with left := n } := by
  have kept := keeps_of_exec h
  have same : { t with k := s.k, left := n, frames := s.frames, inputs := s.inputs, presented := s.presented } =
      { t with left := n } := by
    rw [← kept.config.1, ← kept.host.1, ← kept.host.2.1, ← kept.host.2.2]
  exact (instructionsIgnoreTheFrame i s t s.k n s.frames s.inputs s.presented h).trans (congrArg _ same)

theorem cycle_setLeft {s u : State} (h : cycle s = .next u) (n : Nat) :
    cycle { s with left := n } = .next { u with left := n } := by
  obtain ⟨e, hfetch, rfl⟩ | ⟨w, hfetch, hexec⟩ := cycle_cases h
  · exact cycle_eq_takeFault (s := { s with left := n }) hfetch
  · exact (cycle_eq_exec (s := { s with left := n }) hfetch).trans (exec_setLeft hexec n)

theorem cycles_answers (n : Nat) (s : State) : ∃ u, cycles n s = .next u := by
  induction n generalizing s with
  | zero => exact ⟨s, rfl⟩
  | succ n ih =>
    obtain ⟨t, ht⟩ := cycle_answers s
    by_cases hhalted : t.runState = .halted
    · exact ⟨t, cycles_succ_halted ht hhalted⟩
    · obtain ⟨u, hu⟩ := ih t
      exact ⟨u, (cycles_succ ht hhalted).trans hu⟩

theorem State.endFrame_of_halted {s : State} (h : s.runState = .halted) : s.endFrame = s.present := if_pos h

theorem State.setLeft_zero {s : State} (h : s.left = 0) : { s with left := 0 } = s := by rw [← h]

theorem cycles_one {s t : State} (h : cycle s = .next t) : cycles 1 s = .next t := by
  by_cases hhalted : t.runState = .halted
  · exact cycles_succ_halted h hhalted
  · exact cycles_succ h hhalted

/-- A step of an open batch of `n + 1` slots: a cycle, and the end of the frame after a fault or the last slot. -/
theorem step_batch {s t : State} (hrun : s.runState = .running) (hleft : s.left = 0) (h : cycle s = .next t) (n : Nat) :
    step { s with left := n + 1 } =
      .next (if t.runState = .halted ∨ n = 0 then t.endFrame else { t with left := n }) := by
  have closed : { t with left := 0 } = t := State.setLeft_zero ((cycle_keepsHost h).left.trans hleft)
  rw [step_in_batch (s := { s with left := n + 1 }) hrun (Nat.succ_ne_zero n) (cycle_setLeft h (n + 1))]
  have last : (t.runState = .halted ∨ n + 1 ≤ 1) ↔ (t.runState = .halted ∨ n = 0) := by simp
  simp only [State.afterCycle, last, closed, Nat.add_sub_cancel]

theorem run_halted_present {s : State} (h : s.runState = .halted) (n : Nat) :
    Host.Core.run core n s.present = .next s.present := by
  cases n with
  | zero => rfl
  | succ n => exact run_of_halted (s := s.present) h n

/-- The steps of an open batch of `n + 1` slots are its cycles and the end of its frame. -/
theorem run_batch (n : Nat) {s u : State} (hrun : s.runState = .running) (hleft : s.left = 0)
    (h : cycles (n + 1) s = .next u) : Host.Core.run core (n + 1) { s with left := n + 1 } = .next u.endFrame := by
  obtain ⟨t, ht⟩ := cycle_answers s
  rw [run_succ (step_batch hrun hleft ht n)]
  by_cases hhalted : t.runState = .halted
  · obtain rfl := Host.Outcome.next.inj ((cycles_succ_halted ht hhalted).symm.trans h)
    rw [if_pos (.inl hhalted), State.endFrame_of_halted hhalted, run_halted_present hhalted]
  · cases n with
    | zero =>
      obtain rfl := Host.Outcome.next.inj ((cycles_one ht).symm.trans h)
      rw [if_pos (.inr rfl), run_zero]
    | succ n =>
      rw [if_neg (by simp [hhalted])]
      exact run_batch n (cycle_runState hrun ht hhalted) ((cycle_keepsHost ht).left.trans hleft)
        ((cycles_succ ht hhalted).symm.trans h)

theorem run_one {s t : State} (h : step s = .next t) : Host.Core.run core 1 s = .next t := run_succ h

/-- A run is known by its first step. -/
theorem run_congr {s t : State} (h : step s = step t) (n : Nat) :
    Host.Core.run core (n + 1) s = Host.Core.run core (n + 1) t := by
  obtain ⟨u, hu⟩ := stepAlwaysAnswers s
  rw [run_succ hu, run_succ (h ▸ hu)]

theorem frame_of_halted {s : State} (f : FrameInput) (h : s.runState = .halted) : frame f s = .next s.present :=
  if_pos h

theorem frame_of_running {s u : State} {f : FrameInput} (hhalted : s.runState ≠ .halted)
    (hrun : (s.startFrame f).runState = .running) (h : cycles s.k (s.startFrame f) = .next u) :
    frame f s = .next u.endFrame := by
  simp only [frame, if_neg hhalted, if_pos hrun, State.startFrame_k, h]

theorem frame_of_not_running {s : State} {f : FrameInput} (hhalted : s.runState ≠ .halted)
    (hrun : (s.startFrame f).runState ≠ .running) : frame f s = .next (s.startFrame f).present := by
  simp only [frame, if_neg hhalted, if_neg hrun]

section

variable {s : State} {f : FrameInput} {rest : List FrameInput}

theorem State.nextInput_of_cons (h : s.inputs = f :: rest) : s.nextInput = f := by
  rw [State.nextInput, h, List.headD_cons]

theorem State.afterInput_of_cons (h : s.inputs = f :: rest) :
    s.afterInput = { s with inputs := rest, frames := s.frames + 1 } := by
  rw [State.afterInput, h, List.tail_cons]

end

/-- Settles O41: the first step opens the batch of the spec's frame, and the steps of the batch are its cycles; a frame
without a batch is one step. -/
theorem stepsMakeTheFrame : Obligations.StepsMakeTheFrame := by
  refine ⟨?_, fun s f h => (advance_halted h).trans (frame_of_halted f h).symm⟩
  rintro s b f rest hhalted hstart hinputs rfl
  rw [← State.afterInput_of_cons hinputs, ← State.nextInput_of_cons hinputs]
  by_cases hb : s.begun.runState = .running
  · rw [if_pos hb]
    rcases Nat.eq_zero_or_pos s.k with hk | hk
    · rw [hk, frame_of_running (s := s.afterInput) (u := s.begun) hhalted hb (by rw [State.afterInput_k, hk]; rfl)]
      have ticks : s.begun.endFrame = (timerTick s.begun).present := if_neg (by rw [hb]; decide)
      rw [ticks]
      exact run_one (step_empty_batch hhalted hstart hb hk)
    · obtain ⟨n, hn⟩ := Nat.exists_eq_add_one.2 hk
      obtain ⟨u, hu⟩ := cycles_answers s.k s.begun
      rw [frame_of_running (s := s.afterInput) hhalted hb hu, max_eq_left hk]
      rw [hn] at hu ⊢
      rw [run_congr (step_opens_batch hhalted hstart hb hk.ne'), hn]
      exact run_batch n hb (State.startFrame_left _ _) hu
  · rw [if_neg hb, frame_of_not_running (s := s.afterInput) hhalted hb]
    exact run_one (step_without_batch hhalted hstart hb)

/-! ## Frame ends (60_exceptions.md R286, R291 to R294, R309 to R311) -/

/-- Settles O42: fault entry keeps PC and the timers, and the end of a faulting cycle closes the batch
without a tick. -/
theorem faultEndsTheBatchWithoutTick : Obligations.FaultEndsTheBatchWithoutTick := by
  intro s u hrun hleft hcycle hu
  have closed : u.afterCycle = State.present { u with left := 0 } := by
    rw [State.afterCycle, if_pos (.inl hu)]
    exact State.endFrame_of_halted hu
  refine ⟨u.afterCycle, step_in_batch hrun hleft hcycle, ?_⟩
  rw [closed]
  obtain ⟨hsame, -⟩ | ⟨w, e, rfl⟩ := cycle_unfaulted_or_takeFault hcycle
  · rw [hu, hrun] at hsame
    cases hsame
  · exact ⟨rfl, rfl, rfl, rfl, rfl, rfl⟩

theorem State.begun_runState {s : State} (h : s.nextInput.quit = false) :
    s.begun.runState = if s.nextInput.pauseToggle then s.runState.toggled else s.runState := by
  rw [State.begun, State.startFrame_no_quit _ h]
  rfl

theorem State.begun_of_quit {s : State} (h : s.nextInput.quit = true) :
    s.begun = { s.afterInput with runState := .halted, left := 0 } :=
  State.startFrame_quit _ h

/-- Settles O45: such a frame ends after its events, which latch the keys and leave the core Paused. -/
theorem pausedFrameOnlyLatchesKeys : Obligations.PausedFrameOnlyLatchesKeys := by
  intro s f rest hinputs hquit hpaused
  obtain rfl := State.nextInput_of_cons hinputs
  have hrunState : s.begun.runState = .paused := by
    rw [State.begun_runState hquit]
    obtain ⟨hs, htoggle⟩ | ⟨hs, -, htoggle⟩ := hpaused <;> simp [hs, htoggle, RunState.toggled]
  have hstep : step s = .next s.begun.present := by
    refine step_without_batch ?_ ?_ (by simp [hrunState])
    · obtain ⟨hs, -⟩ | ⟨hs, -⟩ := hpaused <;> simp [hs]
    · obtain ⟨hs, -⟩ | ⟨-, hleft, -⟩ := hpaused
      · simp [hs]
      · exact fun _ => hleft
  refine ⟨_, hstep, State.begun_keys hquit, hrunState, ?_⟩
  have htail : s.inputs.tail = rest := by rw [hinputs, List.tail_cons]
  simp [htail, State.outputs]

/-- Settles O46: after a quit the frame ends at once. -/
theorem quitHaltsBeforeAnythingElse : Obligations.QuitHaltsBeforeAnythingElse := by
  intro s f rest hinputs hquit hhalted hstart
  obtain rfl := State.nextInput_of_cons hinputs
  have hbegun := State.begun_of_quit hquit
  refine ⟨_, step_without_batch hhalted hstart (by simp [hbegun]), ?_⟩
  rw [hbegun]
  exact ⟨rfl, rfl, rfl, rfl, rfl, rfl, rfl, rfl, rfl, rfl, rfl, rfl, rfl, rfl, rfl⟩

/-- Settles O47: the events leave the core Running, and an empty batch ends in the tick. -/
theorem emptyBatchStillTicks : Obligations.EmptyBatchStillTicks := by
  intro s hk hleft hhalted hquit htoggle
  have hrun : s.begun.runState = .running := by
    rw [State.begun_runState hquit]
    by_cases hpaused : s.runState = .paused
    · rw [if_pos (htoggle.2 hpaused), hpaused]
      rfl
    · rw [if_neg fun h => hpaused (htoggle.1 h)]
      cases hs : s.runState with
      | running => rfl
      | paused => exact absurd hs hpaused
      | halted => exact absurd hs hhalted
  refine ⟨_, step_empty_batch hhalted (fun _ => hleft) hrun hk, hrun, ?_, ?_, ?_⟩
  · rw [State.present_dt, timerTick_dt_toNat, State.startFrame_dt, State.afterInput_dt]
  · rw [State.present_st, timerTick_st_toNat, State.startFrame_st, State.afterInput_st]
  · simp

theorem State.afterCycle_runState (s : State) : s.afterCycle.runState = s.runState := by
  rcases s.afterCycle_cases with ⟨-, h⟩ | ⟨-, -, h⟩ | ⟨-, -, h⟩ <;> simp [h]

theorem State.afterCycle_presented_of_more {s : State} (hrun : s.runState ≠ .halted) (hleft : 2 ≤ s.left) :
    s.afterCycle.presented = s.presented := by
  obtain ⟨h, -⟩ | ⟨-, h, -⟩ | ⟨-, -, h⟩ := s.afterCycle_cases
  · exact absurd h hrun
  · omega
  · rw [h]

theorem State.afterCycle_presented_of_closed {s : State} (hleft : s.afterCycle.left = 0) :
    s.afterCycle.presented = some s.afterCycle.outputs := by
  obtain ⟨-, h⟩ | ⟨-, -, h⟩ | ⟨-, hmore, h⟩ := s.afterCycle_cases
  · rw [h]
    rfl
  · rw [h]
    rfl
  · rw [h] at hleft
    have : s.left - 1 = 0 := hleft
    omega

/-- Settles O49: the end of a cycle presents where it closes the batch and nowhere else; a slot without a cycle always
presents. -/
theorem outputsArePresentedAtFrameEnds : Obligations.OutputsArePresentedAtFrameEnds := by
  intro s t h
  constructor
  · intro hrun hleft ht
    obtain ⟨v, hcycle⟩ := cycle_answers s
    have kept := cycle_keepsHost hcycle
    obtain rfl := Host.Outcome.next.inj ((step_in_batch hrun (by omega) hcycle).symm.trans h)
    rw [State.afterCycle_runState] at ht
    rw [State.afterCycle_presented_of_more (by simp [ht]) (kept.left ▸ hleft), kept.host.2.2]
  · intro hclosed
    obtain ⟨u, -, rfl⟩ | ⟨u, v, -, -, rfl⟩ := step_cases h
    · rfl
    · exact State.afterCycle_presented_of_closed hclosed

end Sys2Proof.Machine

namespace Sys2Proof.Machine

open Sys2Proof

/-! ## Load and reset (70_reset_and_hazards.md R320 to R326) -/

section

variable {c : Config} {bytes : List Byte}

theorem load_some (hrate : c.tickRate ≠ 0) (hlen : bytes.length ≤ 3584) :
    load (some bytes) c =
      .next { State.reset with mem := loadedMemory c bytes, k := c.ips / c.tickRate, fx29High := c.fx29High } := by
  simp only [load, if_neg hrate, if_neg (not_lt.2 hlen)]

theorem load_tooLong (hrate : c.tickRate ≠ 0) (hlen : 3584 < bytes.length) :
    load (some bytes) c = .fault .romLoadError := by
  simp only [load, if_neg hrate, if_pos hlen]

theorem load_none (hrate : c.tickRate ≠ 0) : load none c = .fault .romLoadError := if_neg hrate

theorem load_tickRate_zero (hrate : c.tickRate = 0) (image : Option (List Byte)) :
    load image c = .refused .tickRateZero := if_pos hrate

/-- Everything a load of a readable image can answer with a state. -/
theorem load_cases {s : State} (h : load (some bytes) c = .next s) :
    bytes.length ≤ 3584 ∧
      s = { State.reset with mem := loadedMemory c bytes, k := c.ips / c.tickRate, fx29High := c.fx29High } := by
  by_cases hrate : c.tickRate = 0
  · rw [load_tickRate_zero hrate] at h
    cases h
  · by_cases hlen : bytes.length ≤ 3584
    · rw [load_some hrate hlen] at h
      exact ⟨hlen, (Host.Outcome.next.inj h).symm⟩
    · rw [load_tooLong hrate (not_le.1 hlen)] at h
      cases h

end

/-- Settles O52: the conditions of the load, in the order it looks at them. -/
theorem loadErrorsMakeNoState : Obligations.LoadErrorsMakeNoState := fun _ _ =>
  ⟨load_none, load_tooLong, fun hrate => ⟨load_tickRate_zero hrate _, load_tickRate_zero hrate _⟩⟩

/-- Settles O53: the default FONT is the background, so that writing it leaves no entry. -/
theorem resetIsTheDefaultLoad : Obligations.ResetIsTheDefaultLoad := by
  unfold Obligations.ResetIsTheDefaultLoad
  rfl

/-! ### The memory a load builds -/

theorem fontBytes_length (c : Config) : (Config.fontBytes c).length = 80 := by
  simp [Config.fontBytes, fontGlyph0]

theorem background_above_font {a : Nat} (h : 80 ≤ a) : background a = 0#8 :=
  List.getD_eq_default _ _ h

/-- A byte of the loaded memory: of the image, of FONT, or 0. -/
theorem loadedMemory_read (c : Config) (bytes : List Byte) (a : Nat) :
    (loadedMemory c bytes).read a =
      if 0x200 ≤ a ∧ a < 0x200 + bytes.length then bytes.getD (a - 0x200) 0#8
      else if a < 80 then (Config.fontBytes c).getD a 0#8 else 0#8 := by
  rw [loadedMemory, Memory.read_writeList, Memory.read_writeList, fontBytes_length]
  by_cases hfont : a < 80
  · simp [hfont]
  · have hbackground : Memory.read [] a = 0#8 := background_above_font (not_lt.1 hfont)
    simp [hfont, hbackground]

theorem loadedMemory_read_image (c : Config) {bytes : List Byte} {j : Nat} (h : j < bytes.length) :
    (loadedMemory c bytes).read (0x200 + j) = bytes[j] := by
  rw [loadedMemory_read, if_pos (by omega), Nat.add_sub_cancel_left, List.getD_eq_getElem _ _ h]

theorem loadedMemory_read_font (c : Config) (bytes : List Byte) {a : Nat} (h : a < 80) :
    (loadedMemory c bytes).read a = (Config.fontBytes c).getD a 0#8 := by
  rw [loadedMemory_read, if_neg (by omega), if_pos h]

theorem loadedMemory_read_elsewhere (c : Config) (bytes : List Byte) {a : Nat} (hfont : 0x50 ≤ a)
    (himage : a < 0x200 ∨ 0x200 + bytes.length ≤ a) : (loadedMemory c bytes).read a = 0#8 := by
  rw [loadedMemory_read, if_neg (by omega), if_neg (by omega)]

theorem loadedMemory_read_glyph (c : Config) (bytes : List Byte) {j : Nat} (h : j < 75) :
    (loadedMemory c bytes).read (5 + j) = c.glyphs[j] := by
  rw [loadedMemory_read_font c bytes (by omega), Config.fontBytes,
    List.getD_append_right _ _ _ _ (by simp [fontGlyph0])]
  simp [fontGlyph0, h]

/-- Settles O51: each range of the loaded memory by its own lemma; all else is the reset state. -/
theorem loadBuildsTheResetState : Obligations.LoadBuildsTheResetState := by
  intro bytes c hrate hlen
  have glyph0 (a : Nat) (h : a < 80) := loadedMemory_read_font c bytes h
  refine ⟨_, load_some hrate hlen, fun j h => loadedMemory_read_image c h, glyph0 0 (by decide), glyph0 1 (by decide),
    glyph0 2 (by decide), glyph0 3 (by decide), glyph0 4 (by decide), fun j h => loadedMemory_read_glyph c bytes h,
    fun a hfont himage => loadedMemory_read_elsewhere c bytes hfont (.inl himage),
    fun a himage => loadedMemory_read_elsewhere c bytes (by omega) (.inr himage), ?_⟩
  refine ⟨?_, rfl, rfl, rfl, ?_, fun x y => Display.pixel_clear x y, ?_, rfl, rfl, rfl, rfl, rfl, rfl⟩
  · intro z
    exact Vector.getElem_replicate _
  · intro k h
    exact Vector.getElem_replicate h
  · intro k h
    exact Vector.getElem_replicate h

/-! ### The invariant after a load -/

theorem loadedMemory_wf (c : Config) {bytes : List Byte} (h : bytes.length ≤ 3584) :
    (loadedMemory c bytes).wf = true := by
  have hfont : 0 + (Config.fontBytes c).length ≤ 4096 := by
    rw [fontBytes_length]
    decide
  have himage : 0x200 + bytes.length ≤ 4096 := by omega
  exact Memory.wf_writeList _ (Memory.wf_writeList _ rfl hfont) himage

/-- The reset state meets the invariant with any canonical memory and any configuration. -/
theorem inv_reset_with {m : Memory} (hm : m.wf = true) (k : Nat) (high : Fx29High) :
    State.Inv { State.reset with mem := m, k := k, fx29High := high } where
  memCanonical := hm
  slotsLeft := Nat.zero_le k
  closedBatch _ := rfl
  faultHalts h := absurd rfl h
  faultPc _ h := nomatch h
  haltPresented h := nomatch h
  pcBound := (by decide : State.reset.pc.toNat ≤ 0x1002)
  stackBound j h := by simp [State.reset]

/-- Settles O54: FONT and image are written inside the memory, so the loaded memory is canonical. -/
theorem loadedStateMeetsInvariant : Obligations.LoadedStateMeetsInvariant := by
  refine ⟨inv_reset_with State.reset_mem_wf _ _, fun bytes c s h => ?_⟩
  obtain ⟨hlen, rfl⟩ := load_cases h
  exact inv_reset_with (loadedMemory_wf c hlen) _ _

end Sys2Proof.Machine

namespace Sys2Proof.Machine

open Sys2Proof

/-! ## What an instruction leaves unchanged (40_cycle.md R137; 10_state.md R43) -/

theorem exec_faultTaken {i : Instr} {s : State} {code : FaultCode} {detail : Nat}
    (h : Instr.faultOf s i = some (code, detail)) :
    ∃ t, exec i s = .next t ∧ FaultTaken code (some (encode i)) detail s t :=
  ⟨_, exec_of_raised_some (raised_eq_some_of_faultOf h), faultTaken_takeFault s _ { code, detail }⟩

/-- The frame of an instruction that raises nothing: no fault, and no write its row does not list. -/
theorem effect_frame (s : State) (i : Instr) :
    Unfaulted s (Instr.effect s i) ∧ Keeps (Instr.writes s i) s (Instr.effect s i) :=
  ⟨unfaulted_effect s i, keeps_effect s i⟩

/-! ## Jumps, calls and returns (41_control_flow.md) -/

/-- Settles O9: the targets as numbers, the second reduced to 12 bits by its mask. -/
theorem jumpsSetPcOnly : Obligations.JumpsSetPcOnly := by
  intro nnn s
  exact ⟨⟨encodeThenDecode (.jp nnn) rfl, _, exec_of_raised_none (i := .jp nnn) rfl, zextAddr_toNat nnn,
      effect_frame s (.jp nnn)⟩,
    encodeThenDecode (.jpV0 nnn) rfl, _, exec_of_raised_none (i := .jpV0 nnn) rfl, offsetTarget_toNat _ nnn,
    effect_frame s (.jpV0 nnn)⟩

theorem exec_call {s : State} (nnn : Addr) (h : s.sp.val < 12) :
    exec (.call nnn) s = .next ((s.advancePc.push (s.pc + 2#16)).setPc (zextAddr nnn)) :=
  exec_of_raised_none (i := .call nnn) ((s.pushCheck_eq_none _).2 h)

theorem exec_ret {s : State} (h : 0 < s.sp.val) : exec .ret s = .next (s.advancePc.dropTop.setPc s.top) :=
  exec_of_raised_none (i := .ret) (s.popCheck_eq_none.2 h)

/-- Settles O10: the push by its entries, the overflow by the fault table. -/
theorem callPushesOrOverflows : Obligations.CallPushesOrOverflows := by
  intro nnn s
  refine ⟨encodeThenDecode (.call nnn) rfl, fun hroom => ?_,
    fun hfull => exec_faultTaken (i := .call nnn) (if_pos hfull)⟩
  exact ⟨_, exec_call nnn hroom, zextAddr_toNat nnn, State.push_sp (s := s.advancePc) _ hroom,
    fun k hk => State.push_entry (s := s.advancePc) _ hroom k hk, effect_frame s (.call nnn)⟩

/-- Settles O11: the entry under the depth is the new PC, the underflow is in the fault table. -/
theorem returnPopsOrUnderflows : Obligations.ReturnPopsOrUnderflows := by
  refine ⟨encodeThenDecode .ret rfl, fun s =>
    ⟨fun k hk hdepth => ?_, fun hempty => exec_faultTaken (i := .ret) (if_pos hempty)⟩⟩
  refine ⟨_, exec_ret (by omega), ?_, ?_, rfl, effect_frame s .ret⟩
  · have top : s.top = s.stack[k] := by simp only [State.top_eq, hdepth, Nat.add_sub_cancel]
    exact top
  · have depth : s.sp.val - 1 = k := by omega
    exact depth

theorem Unfaulted.trans {s t u : State} (h : Unfaulted s t) (h' : Unfaulted t u) : Unfaulted s u :=
  ⟨h'.1.trans h.1, h'.2.trans h.2⟩

theorem Keeps.trans {c : Changes} {s t u : State} (h : Keeps c s t) (h' : Keeps c t u) : Keeps c s u where
  v z hz := (h'.v z hz).trans (h.v z hz)
  mem a ha := (h'.mem a ha).trans (h.mem a ha)
  i hc := (h'.i hc).trans (h.i hc)
  stack hc := ⟨(h'.stack hc).1.trans (h.stack hc).1, (h'.stack hc).2.trans (h.stack hc).2⟩
  disp hc := (h'.disp hc).trans (h.disp hc)
  dt hc := (h'.dt hc).trans (h.dt hc)
  st hc := (h'.st hc).trans (h.st hc)
  rng hc := (h'.rng hc).trans (h.rng hc)
  draws hc := (h'.draws hc).trans (h.draws hc)
  keys := h'.keys.trans h.keys
  config := ⟨h'.config.1.trans h.config.1, h'.config.2.trans h.config.2⟩
  batch := h'.batch.trans h.batch
  host := ⟨h'.host.1.trans h.host.1, h'.host.2.1.trans h.host.2.1, h'.host.2.2.trans h.host.2.2⟩

/-- Settles O12: RET finds the entry CALL wrote, and leaves every lower one as CALL left it. -/
theorem callThenReturnRestores : Obligations.CallThenReturnRestores := by
  intro nnn s hroom
  obtain ⟨-, call, -⟩ := callPushesOrOverflows nnn s
  obtain ⟨t, hcall, -, hdepth, hentry, hunfaulted, hkeeps⟩ := call hroom
  obtain ⟨ret, -⟩ := returnPopsOrUnderflows.2 t
  obtain ⟨u, hret, hpc, hdepth', hstack, hunfaulted', hkeeps'⟩ := ret s.sp.val hroom hdepth
  refine ⟨t, u, hcall, hret, ?_, Fin.ext hdepth', fun k hk hlive => ?_, hunfaulted.trans hunfaulted',
    hkeeps.trans hkeeps'⟩
  · rw [hpc, hentry, if_pos rfl]
  · simp only [hstack, hentry k hk, if_neg hlive.ne]

/-! ## Skips (41_control_flow.md, 40_cycle.md R134) -/

/-- Settles O13: both are the skip, on opposite conditions. -/
theorem skipsOnImmediate : Obligations.SkipsOnImmediate := by
  intro x nn s
  refine ⟨⟨encodeThenDecode (.seImm x nn) rfl, _, exec_of_raised_none (i := .seImm x nn) rfl, ?_,
      effect_frame s (.seImm x nn)⟩,
    encodeThenDecode (.sneImm x nn) rfl, _, exec_of_raised_none (i := .sneImm x nn) rfl, ?_,
    effect_frame s (.sneImm x nn)⟩
  · simp [Instr.effect]
  · by_cases h : s.getV x = nn <;> simp [Instr.effect, h]

/-- Settles O14: both are the skip, on opposite conditions; a 5XYN word with another N matches no instruction. -/
theorem skipsOnRegisters : Obligations.SkipsOnRegisters := by
  intro x y n s
  refine ⟨⟨encodeThenDecode (.seReg x y) rfl, fun hn => by simp [decode, decodeOp5, hn], _,
      exec_of_raised_none (i := .seReg x y) rfl, ?_, effect_frame s (.seReg x y)⟩,
    encodeThenDecode (.sneReg x y n) rfl, _, exec_of_raised_none (i := .sneReg x y n) rfl, ?_,
    effect_frame s (.sneReg x y n)⟩
  · simp [Instr.effect]
  · by_cases h : s.getV x = s.getV y <;> simp [Instr.effect, h]

theorem keyDown_of_lt (s : State) {k : Nat} (h : k < 16) : s.keyDown k = s.keys[k] := dif_pos h

/-- Settles O32: below 16 the check raises nothing and the key is read; the fault table has the rest. -/
theorem keySkipsOrFault : Obligations.KeySkipsOrFault := by
  intro x s
  constructor
  · intro k hk hx
    have raised : keyCheck (s.getV x) = none := (keyCheck_eq_none _).2 (by omega)
    refine ⟨⟨_, exec_of_raised_none (i := .skp x) raised, ?_, effect_frame s (.skp x)⟩,
      _, exec_of_raised_none (i := .sknp x) raised, ?_, effect_frame s (.sknp x)⟩
    · simp only [Instr.effect, State.skipIf_pc, hx, keyDown_of_lt s hk]
    · cases hkey : s.keys[k] <;> simp [Instr.effect, hx, keyDown_of_lt s hk, hkey]
  · intro hx
    exact ⟨exec_faultTaken (i := .skp x) (if_pos hx), exec_faultTaken (i := .sknp x) (if_pos hx)⟩

/-! ## The 8-bit ALU (42_alu.md) -/

/-- Settles O16: each writes Vx alone, with the bits of the bitwise operation. -/
theorem assignAndLogic : Obligations.AssignAndLogic := by
  intro x y s
  refine ⟨⟨_, exec_of_raised_none (i := .ldReg x y) rfl, State.getV_setV_same _ _ _, ?_⟩,
    ⟨_, exec_of_raised_none (i := .orReg x y) rfl, fun j _ => ?orBits, ?_⟩,
    ⟨_, exec_of_raised_none (i := .andReg x y) rfl, fun j _ => ?andBits, ?_⟩,
    ⟨_, exec_of_raised_none (i := .xorReg x y) rfl, fun j _ => ?xorBits, ?_⟩⟩
  case orBits | andBits | xorBits => simp [Instr.effect]
  all_goals exact ⟨advancePc_setV_pc s x _, unfaulted_advancePc_setV s x _, keeps_advancePc_setV s x _⟩

section

variable (s : State) (x : Nibble) (flag : Bool) (b : Byte)

theorem getV_result_of_writeFlagThenResult : (s.advancePc.writeFlagThenResult x flag b).getV x = b := by
  rw [State.getV_writeFlagThenResult, if_pos rfl]

theorem getV_vf_of_writeFlagThenResult {x : Nibble} (hx : x ≠ vf) :
    (s.advancePc.writeFlagThenResult x flag b).getV vf = flagByte flag := by
  rw [State.getV_writeFlagThenResult, if_neg hx.symm, if_pos rfl]

end

/-- The byte of a flag that is a comparison. -/
theorem flagByte_decide (p : Prop) [Decidable p] : flagByte (decide p) = if p then 1#8 else 0#8 := by
  by_cases h : p <;> simp [flagByte, h]

/-- Settles O17: the result is written after the flag, and the carry compares the sum with 255. -/
theorem addSetsCarry : Obligations.AddSetsCarry := by
  intro x y s
  refine ⟨_, exec_of_raised_none (i := .addReg x y) rfl, ?_, fun hx => ?_, rfl, effect_frame s (.addReg x y)⟩
  · rw [Instr.effect, getV_result_of_writeFlagThenResult, BitVec.toNat_add]
  · rw [Instr.effect, getV_vf_of_writeFlagThenResult _ _ _ hx, carryOut, flagByte_decide]

theorem byte_sub_toNat (a b : Byte) : (a - b).toNat = (a.toNat + 256 - b.toNat) % 256 := by
  have := b.isLt
  rw [BitVec.toNat_sub]
  omega

/-- Settles O18: as `addSetsCarry`, with the comparison of the operands as the flag. -/
theorem subtractionsSetNoBorrow : Obligations.SubtractionsSetNoBorrow := by
  intro x y s
  refine ⟨⟨_, exec_of_raised_none (i := .sub x y) rfl, ?_, fun hx => ?_, rfl, effect_frame s (.sub x y)⟩,
    _, exec_of_raised_none (i := .subn x y) rfl, ?_, fun hx => ?_, rfl, effect_frame s (.subn x y)⟩
  · rw [Instr.effect, getV_result_of_writeFlagThenResult, byte_sub_toNat]
  · rw [Instr.effect, getV_vf_of_writeFlagThenResult _ _ _ hx, noBorrow, flagByte_decide]
  · rw [Instr.effect, getV_result_of_writeFlagThenResult, byte_sub_toNat]
  · rw [Instr.effect, getV_vf_of_writeFlagThenResult _ _ _ hx, noBorrow, flagByte_decide]

theorem lowBit_toNat (b : Byte) : (lowBit b).toNat = b.toNat % 2 :=
  (Nat.toNat_testBit b.toNat 0).trans (by rw [pow_zero, Nat.div_one])

theorem highBit_toNat (b : Byte) : (highBit b).toNat = b.toNat / 128 :=
  (Nat.toNat_testBit b.toNat 7).trans (by have := b.isLt; omega)

/-- Settles O19: the bit shifted out is the remainder by 2, or the quotient by 128. -/
theorem shiftsSetBitShiftedOut : Obligations.ShiftsSetBitShiftedOut := by
  intro x y s
  refine ⟨⟨_, exec_of_raised_none (i := .shr x y) rfl, ?_, fun hx => ?_, rfl, effect_frame s (.shr x y)⟩,
    _, exec_of_raised_none (i := .shl x y) rfl, ?_, fun hx => ?_, rfl, effect_frame s (.shl x y)⟩
  · rw [Instr.effect, getV_result_of_writeFlagThenResult, BitVec.toNat_ushiftRight, Nat.shiftRight_eq_div_pow]
  · rw [Instr.effect, getV_vf_of_writeFlagThenResult _ _ _ hx, flagByte_toNat, lowBit_toNat]
  · rw [Instr.effect, getV_result_of_writeFlagThenResult, BitVec.toNat_shiftLeft, Nat.shiftLeft_eq]
  · rw [Instr.effect, getV_vf_of_writeFlagThenResult _ _ _ hx, flagByte_toNat, highBit_toNat]

/-- Settles O20: the draw is the head of the lined-up bytes, or the free value where there is none. -/
theorem randomTakesOneDraw : Obligations.RandomTakesOneDraw := by
  intro x nn s
  refine ⟨_, exec_of_raised_none (i := .rnd x nn) rfl, fun r rest hrng => ?_, fun r hrng hr => ?_, rfl, rfl,
    effect_frame s (.rnd x nn)⟩
  · simp [Instr.effect, State.nextRandByte, hrng]
  · simp [Instr.effect, State.nextRandByte, hrng, hr]

/-! ## Timers, keys and the index register (45_keypad_timer.md; 43_index_memory.md section 2) -/

/-- Settles O34: each effect is one write. -/
theorem timerTransfersCopy : Obligations.TimerTransfersCopy := by
  intro x s
  exact ⟨⟨_, exec_of_raised_none (i := .ldVxDt x) rfl, State.getV_setV_same _ _ _, rfl,
      effect_frame s (.ldVxDt x)⟩,
    ⟨_, exec_of_raised_none (i := .ldDtVx x) rfl, rfl, rfl, effect_frame s (.ldDtVx x)⟩,
    _, exec_of_raised_none (i := .ldStVx x) rfl, rfl, rfl, effect_frame s (.ldStVx x)⟩

/-- Settles O22: the sum of the two words is modulo 65536. -/
theorem addToIndex : Obligations.AddToIndex := by
  intro x s
  refine ⟨encodeThenDecode (.addI x) rfl, _, exec_of_raised_none (i := .addI x) rfl, ?_, rfl,
    effect_frame s (.addI x)⟩
  rw [Instr.effect, State.setI_i, BitVec.toNat_add, zextByte_toNat]

theorem glyphAddress_toNat (b : Byte) : (glyphAddress b).toNat = b.toNat * 5 := by
  have := b.isLt
  rw [glyphAddress, BitVec.toNat_mul, zextByte_toNat]
  simp
  omega

/-- Settles O23: the two cases of FX29_HIGH; five times a byte does not reach 65536. -/
theorem fontAddressIsTimesFive : Obligations.FontAddressIsTimesFive := by
  intro x s
  constructor
  · intro h
    have formula : ¬((s.getV x).toNat > 15 ∧ s.fx29High = .draw) := by
      rintro ⟨hx, hdraw⟩
      obtain hle | hformula := h
      · omega
      · cases hdraw.symm.trans hformula
    rw [exec_of_raised_none (i := .ldF x) rfl, effect_ldF_formula formula]
    exact ⟨_, rfl, glyphAddress_toNat _, advancePc_setI_pc s _, unfaulted_advancePc_setI s _, keeps_advancePc_setI s _⟩
  · rintro w h rfl
    rw [exec_of_raised_none (i := .ldF x) rfl, effect_ldF_draw h]
    have keeps := keeps_effect s (.ldF x)
    rw [effect_ldF_draw h] at keeps
    exact ⟨_, rfl, rfl, rfl, rfl, ⟨rfl, rfl⟩, keeps⟩

/-- The scan from 0 finds the lowest key that is down. -/
theorem lowestKey_eq_some {s : State} {k : Nat} (hk : k < 16) (hdown : s.keys[k] = true)
    (hlower : ∀ j, (h : j < k) → s.keys[j] = false) : s.lowestKey = some k := by
  rw [State.lowestKey, List.find?_range_eq_some]
  refine ⟨(keyDown_of_lt s hk).trans hdown, List.mem_range.2 hk, fun j hj => ?_⟩
  rw [keyDown_of_lt s (hj.trans hk), hlower j hj]
  rfl

theorem lowestKey_eq_none {s : State} (h : ∀ k, (h : k < 16) → s.keys[k] = false) : s.lowestKey = none := by
  rw [State.lowestKey, List.find?_eq_none]
  intro k hk
  have hlt := List.mem_range.1 hk
  rw [keyDown_of_lt s hlt, h k hlt]
  decide

theorem effect_ldVxK_some {s : State} {k : Nat} (x : Nibble) (h : s.lowestKey = some k) :
    Instr.effect s (.ldVxK x) = s.advancePc.setV x (BitVec.ofNat 8 k) := by
  simp only [Instr.effect, h]

theorem effect_ldVxK_none {s : State} (x : Nibble) (h : s.lowestKey = none) :
    Instr.effect s (.ldVxK x) = s.advancePc.setPc s.pc := by
  simp only [Instr.effect, h, State.advancePc_pc, BitVec.add_sub_cancel]

/-- Settles O33: the scan finds the lowest key, or none and PC goes back to PC0. -/
theorem awaitKeyTakesLowestOrWaits : Obligations.AwaitKeyTakesLowestOrWaits := by
  intro x s
  constructor
  · intro k hk hdown hlower
    rw [exec_of_raised_none (i := .ldVxK x) rfl, effect_ldVxK_some x (lowestKey_eq_some hk hdown hlower)]
    refine ⟨_, rfl, ?_, advancePc_setV_pc s x _, unfaulted_advancePc_setV s x _, keeps_advancePc_setV s x _⟩
    rw [State.getV_setV_same, BitVec.toNat_ofNat]
    omega
  · intro hup
    rw [exec_of_raised_none (i := .ldVxK x) rfl, effect_ldVxK_none x (lowestKey_eq_none hup)]
    exact ⟨_, rfl, rfl, unfaulted_advancePc s, (keeps_advancePc s).setPc _⟩

end Sys2Proof.Machine

namespace Sys2Proof.Machine

open Sys2Proof

/-! ## Memory accesses through I (43_index_memory.md sections 1 and 3) -/

/-- An instruction that did not halt the core had its effect. -/
theorem eq_effect_of_not_halted {i : Instr} {s t : State} (h : exec i s = .next t) (ht : t.runState ≠ .halted) :
    Instr.raised s i = none ∧ t = Instr.effect s i := by
  obtain h | ⟨e, -, rfl⟩ := exec_cases h
  · exact h
  · exact absurd rfl ht

/-! ### BCD -/

/-- The bytes at I to I + 2 after a BCD store. -/
theorem read_effect_ldB (s : State) (x : Nibble) :
    (Instr.effect s (.ldB x)).mem.read s.i.toNat = hundredsDigit (s.getV x) ∧
      (Instr.effect s (.ldB x)).mem.read (s.i.toNat + 1) = tensDigit (s.getV x) ∧
      (Instr.effect s (.ldB x)).mem.read (s.i.toNat + 2) = onesDigit (s.getV x) := by
  simp [Instr.effect, State.base, Memory.read_write]

theorem hundredsDigit_toNat (b : Byte) : (hundredsDigit b).toNat = b.toNat / 100 := BitVec.toNat_udiv

theorem tensDigit_toNat (b : Byte) : (tensDigit b).toNat = b.toNat / 10 % 10 := by
  rw [tensDigit, BitVec.toNat_umod, BitVec.toNat_udiv]
  rfl

theorem onesDigit_toNat (b : Byte) : (onesDigit b).toNat = b.toNat % 10 := BitVec.toNat_umod

/-- Settles O24: the three stored bytes are the quotients and remainders of Vx. -/
theorem bcdStoresThreeDigits : Obligations.BcdStoresThreeDigits := by
  intro x s h
  have hlt := (s.getV x).isLt
  obtain ⟨hundreds, tens, ones⟩ := read_effect_ldB s x
  refine ⟨_, exec_of_raised_none ((raised_ldB_eq_none_iff s x).2 h), ?_, ?_, ?_, ?_, rfl, effect_frame s (.ldB x)⟩
  · rw [hundreds, tens, ones, hundredsDigit_toNat, tensDigit_toNat, onesDigit_toNat]
    omega
  · rw [hundreds, hundredsDigit_toNat]
    omega
  · rw [tens, tensDigit_toNat]
    omega
  · rw [ones, onesDigit_toNat]
    omega

/-! ### Register dump and load -/

theorem read_effect_ldMemVx (s : State) {x : Nibble} {k : Nat} (hk : k ≤ x.toNat) :
    (Instr.effect s (.ldMemVx x)).mem.read (s.i.toNat + k) = s.getV (BitVec.ofNat 4 k) := by
  have inside : s.base ≤ s.i.toNat + k ∧ s.i.toNat + k < s.base + regCount x := by
    simp only [State.base, regCount]
    omega
  rw [Instr.effect, State.read_storeRegs, if_pos inside, State.base, Nat.add_sub_cancel_left, State.getV_advancePc]

theorem getV_effect_ldVxMem (s : State) {x z : Nibble} (hz : z.toNat ≤ x.toNat) :
    (Instr.effect s (.ldVxMem x)).getV z = s.mem.read (s.i.toNat + z.toNat) := by
  have hx := x.isLt
  rw [Instr.effect, State.getV_loadRegs _ _ _ (by rw [regCount]; omega), if_pos (by rw [regCount]; omega)]
  rfl

theorem nibble_ofNat_self (z : Nibble) : BitVec.ofNat 4 z.toNat = z := by
  rw [BitVec.ofNat_toNat, BitVec.setWidth_eq]

/-- Settles O25: the dump inside the memory, byte by byte. -/
theorem dumpStoresRegisters : Obligations.DumpStoresRegisters := by
  intro x s h
  refine ⟨_, exec_of_raised_none ((raised_ldMemVx_eq_none_iff s x).2 h), fun z hz => ?_,
    by simp [Instr.effect], effect_frame s (.ldMemVx x)⟩
  rw [read_effect_ldMemVx s hz, nibble_ofNat_self]

/-- Settles O26: the load inside the memory, register by register. -/
theorem loadReadsRegisters : Obligations.LoadReadsRegisters := by
  intro x s h
  exact ⟨_, exec_of_raised_none ((raised_ldVxMem_eq_none_iff s x).2 h), fun z hz => getV_effect_ldVxMem s hz,
    by simp [Instr.effect], effect_frame s (.ldVxMem x)⟩

/-- Settles O27: the load finds in each byte the register the dump stored there. -/
theorem dumpThenLoadBringsBack : Obligations.DumpThenLoadBringsBack := by
  intro x s t u hdump ht hmem hi
  obtain ⟨inside, rfl⟩ := eq_effect_of_not_halted hdump ht
  rw [raised_ldMemVx_eq_none_iff, ← hi] at inside
  refine ⟨_, exec_of_raised_none ((raised_ldVxMem_eq_none_iff u x).2 inside), unfaulted_effect u (.ldVxMem x),
    fun z hz => ?_⟩
  rw [getV_effect_ldVxMem u hz, hmem, hi, read_effect_ldMemVx s hz, nibble_ofNat_self]

/-- Settles O7: a fetch at stored bytes is inside the memory, because the store was, and reads them. -/
theorem storesAreSeenByTheNextFetch : Obligations.StoresAreSeenByTheNextFetch := by
  constructor
  · intro s t u x k hdump _ ht hk hmem hpc
    obtain ⟨inside, rfl⟩ := eq_effect_of_not_halted hdump (by simp [ht])
    rw [raised_ldMemVx_eq_none_iff] at inside
    have hpc : u.pc.toNat = s.i.toNat + k := hpc
    rw [State.fetch_ok (by show u.pc.toNat + 1 < 4096; omega), Memory.word, hmem, hpc,
      read_effect_ldMemVx s (by omega), Nat.add_assoc, read_effect_ldMemVx s hk]
  · intro s t u x hstore _ ht hmem hpc
    obtain ⟨inside, rfl⟩ := eq_effect_of_not_halted hstore (by simp [ht])
    rw [raised_ldB_eq_none_iff] at inside
    obtain ⟨hundreds, tens, -⟩ := read_effect_ldB s x
    refine ⟨_, _, ?_, hundredsDigit_toNat _, tensDigit_toNat _⟩
    rw [State.fetch_ok (by show u.pc.toNat + 1 < 4096; rw [hpc]; omega), Memory.word, hmem, hpc, hundreds, tens]

/-! ### Accesses outside the memory -/

theorem faultOf_of_addressCheck {a n : Nat} (h : n ≠ 0 ∧ 4096 < a + n) :
    (firstOutside a n).map (Prod.mk FaultCode.addressOutOfRange) = some (.addressOutOfRange, max a 4096) := by
  rw [firstOutside_eq_addressCheck, (addressCheck_eq_some a n _).2 ⟨h, rfl⟩]
  rfl

/-- Settles O28: the fault table finds the first address outside where the last one is outside. -/
theorem accessOutsideMemoryFaults : Obligations.AccessOutsideMemoryFaults := by
  intro x y n s
  refine ⟨fun h => exec_faultTaken (i := .ldB x) (faultOf_of_addressCheck ?_),
    fun h => ⟨exec_faultTaken (i := .ldMemVx x) (faultOf_of_addressCheck ?_),
      exec_faultTaken (i := .ldVxMem x) (faultOf_of_addressCheck ?_)⟩,
    fun h => exec_faultTaken (i := .drw x y n) (faultOf_of_addressCheck ?_)⟩
  · exact ⟨by decide, by simp only [State.base]; omega⟩
  · simp only [State.base, regCount]
    omega
  · simp only [State.base, regCount]
    omega
  · obtain ⟨hrows, hend⟩ := not_or.1 h
    exact ⟨hrows, not_le.1 hend⟩

/-! ## The display (44_display.md) -/

/-- Settles O29: every pixel of the clear display is off. -/
theorem clearScreenClearsAll : Obligations.ClearScreenClearsAll :=
  ⟨encodeThenDecode .cls rfl,
    fun s => ⟨_, exec_of_raised_none (i := .cls) rfl, Display.pixel_clear, rfl, effect_frame s .cls⟩⟩

section

variable (s : State) (x y n : Nibble)

theorem rowsOnScreen_add_le (y0 : Nat) (h : y0 < 32) : y0 + rowsOnScreen n y0 ≤ 32 := by
  unfold rowsOnScreen
  omega

/-- Every pixel after a draw. -/
theorem pixel_drawSprite (cx cy : Nat) :
    Display.pixel (s.drawSprite x y n).disp cx cy = (Display.pixel s.disp cx cy ^^ s.spriteBitAt x y n cx cy) := by
  rw [State.drawSprite, Blit.pixel_rows _ _ _ _ _ _ _ _ (rowsOnScreen_add_le n _ (startRow_lt _)), rowsOnScreen,
    spriteBit_clip]
  rfl

/-- The collision of a draw: a set sprite bit over a pixel that was on. -/
theorem hit_drawSprite : (s.drawSprite x y n).hit = true ↔
    ∃ cx cy, s.spriteBitAt x y n cx cy = true ∧ Display.pixel s.disp cx cy = true := by
  rw [State.drawSprite, Blit.hit_rows _ _ _ _ _ _ (rowsOnScreen_add_le n _ (startRow_lt _)), rowsOnScreen]
  simp only [spriteBit_clip, Bool.false_eq_true, false_or]
  rfl

theorem getV_vf_effect_drw : (Instr.effect s (.drw x y n)).getV vf = flagByte (s.drawSprite x y n).hit :=
  State.getV_setV_same _ _ _

theorem getV_vf_effect_drw_of_hit
    (h : ∃ cx cy, s.spriteBitAt x y n cx cy = true ∧ Display.pixel s.disp cx cy = true) :
    (Instr.effect s (.drw x y n)).getV vf = 1#8 := by
  rw [getV_vf_effect_drw, (hit_drawSprite s x y n).2 h]
  rfl

theorem getV_vf_effect_drw_of_no_hit
    (h : ∀ cx cy, s.spriteBitAt x y n cx cy = true → Display.pixel s.disp cx cy = false) :
    (Instr.effect s (.drw x y n)).getV vf = 0#8 := by
  have hhit : (s.drawSprite x y n).hit = false := by
    rw [Bool.eq_false_iff, ne_eq, hit_drawSprite]
    rintro ⟨cx, cy, hbit, hpixel⟩
    simp [h cx cy hbit] at hpixel
  rw [getV_vf_effect_drw, hhit]
  rfl

theorem exec_drw {s : State} {y n : Nibble} (x : Nibble) (h : s.spriteReadable y n) :
    exec (.drw x y n) s = .next (Instr.effect s (.drw x y n)) :=
  exec_of_raised_none ((addressCheck_eq_none _ _).2 h)

end

/-- Settles O30: the pixels and the collision of the rows on the screen are those of the clipped sprite. -/
theorem drawIsPixelwiseXor : Obligations.DrawIsPixelwiseXor := by
  intro x y n s h
  exact ⟨_, exec_drw x h, pixel_drawSprite s x y n, getV_vf_effect_drw_of_hit s x y n,
    getV_vf_effect_drw_of_no_hit s x y n, rfl, effect_frame s (.drw x y n)⟩

/-- A draw leaves the sprite of the next draw of the same operands as it was, unless a coordinate is in VF. -/
theorem spriteBitAt_effect_drw {x y : Nibble} (hx : x ≠ vf) (hy : y ≠ vf) (s : State) (n : Nibble) (cx cy : Nat) :
    (Instr.effect s (.drw x y n)).spriteBitAt x y n cx cy = s.spriteBitAt x y n cx cy := by
  have sameX : (Instr.effect s (.drw x y n)).getV x = s.getV x := State.getV_setV_ne _ _ hx
  have sameY : (Instr.effect s (.drw x y n)).getV y = s.getV y := State.getV_setV_ne _ _ hy
  rw [State.spriteBitAt, sameX, sameY]
  rfl

theorem spriteReadable_effect_drw {x y n : Nibble} (hy : y ≠ vf) {s : State} (h : s.spriteReadable y n) :
    (Instr.effect s (.drw x y n)).spriteReadable y n := by
  have sameY : (Instr.effect s (.drw x y n)).getV y = s.getV y := State.getV_setV_ne _ _ hy
  rw [State.spriteReadable, sameY]
  exact h

/-- Settles O31: the second XOR undoes the first, and it collides where the first turned a pixel on. -/
theorem drawTwiceRestores : Obligations.DrawTwiceRestores := by
  intro x y n s hx hy h
  set t := Instr.effect s (.drw x y n)
  have first (cx cy : Nat) : Display.pixel t.disp cx cy = (Display.pixel s.disp cx cy ^^ s.spriteBitAt x y n cx cy) :=
    pixel_drawSprite s x y n cx cy
  have bit (cx cy : Nat) : t.spriteBitAt x y n cx cy = s.spriteBitAt x y n cx cy :=
    spriteBitAt_effect_drw hx hy s n cx cy
  refine ⟨t, Instr.effect t (.drw x y n), exec_drw x h, exec_drw x (spriteReadable_effect_drw hy h), ?_, ?_, ?_⟩
  · refine Display.ext_pixel fun cx cy _ _ => ?_
    have second := pixel_drawSprite t x y n cx cy
    rw [bit, first, Bool.xor_assoc, Bool.xor_self, Bool.xor_false] at second
    exact second
  · rintro ⟨cx, cy, hoff, hon⟩
    refine getV_vf_effect_drw_of_hit t x y n ⟨cx, cy, ?_, hon⟩
    rw [bit]
    rwa [first, hoff, Bool.false_xor] at hon
  · intro hoff
    refine getV_vf_effect_drw_of_no_hit t x y n fun cx cy hbit => ?_
    rw [bit] at hbit
    cases hpixel : Display.pixel s.disp cx cy with
    | false => exact hoff cx cy hpixel
    | true => rw [first, hpixel, hbit, Bool.xor_self]

end Sys2Proof.Machine
